-- ==== Sys2Proof/Word.lean ====
section
/-! DEFINITION. The word types of the decoder (00_scope.md sections 4 and 5.1): bytes and 16-bit data addresses. -/

namespace Sys2Proof

/-- A byte, "an unsigned 8-bit value, 0 to 255" (00_scope.md section 5.1). -/
abbrev Byte := BitVec 8

/-- A 16-bit unsigned value: a data address (40_instruction_model.md R98) or a 16-bit immediate (R86). -/
abbrev Word16 := BitVec 16

end Sys2Proof
end

