-- ==== Sys2Proof/Machine/InstructionModel.lean ====
section
/-! DEFINITION. The Instruction Model (40_instruction_model.md): the format of the value a successful decode
transaction returns. "The closed set of instruction shapes and operand shapes; pure data, no behavior" (R80).
Every type that can hold an immediate is written once over the types of its 8-bit and 16-bit value fields: at
`Byte` and `Word16` it is the value handed to the caller, at the slot types of Sys2Proof/Config.lean it is the
fixed part of a recipe (30_encoding.md R58). -/

namespace Sys2Proof

/-- 8-bit register names (R88, D12): `A` and `B` are sourced, the others general knowledge of the spec. -/
inductive Reg8 where
  | A | B | C | D | E | H | L
  deriving DecidableEq, Repr

/-- 16-bit register and register-pair names (R89, D13): `HL` is sourced. -/
inductive Reg16 where
  | BC | DE | HL | SP | AF
  deriving DecidableEq, Repr

/-- Memory-indirection modes (R90, D14): `HL` without adjustment is sourced; the adjustment of the other two `HL`
modes is performed "after access" by the external engine, the decoder only names the mode. -/
inductive Indirect where
  | HL | HLPostInc | HLPostDec | BC | DE
  deriving DecidableEq, Repr

/-- Status-flag names (R91, D15). -/
inductive FlagName where
  | zero | subtract | halfCarry | carry
  deriving DecidableEq, Repr

/-- The four values of a flag effect (R92): "unchanged, forced-set, forced-reset, or deferred". -/
inductive FlagEffect where
  | unchanged | forcedSet | forcedReset | deferred
  deriving DecidableEq, Repr

/-- "A small fixed-arity record of four-valued enums per flag" (R93): one effect for each `FlagName`. -/
structure FlagEffects where
  zero      : FlagEffect
  subtract  : FlagEffect
  halfCarry : FlagEffect
  carry     : FlagEffect
  deriving DecidableEq, Repr

/-- The kinds of shift and rotate: "`ShiftKind` is an uninterpreted enumeration" (R95, N10). Only equality of tags
means anything (DESIGN CHOICE, log 13). -/
structure ShiftKind where
  tag : Nat
  deriving DecidableEq, Repr

/-- One half of a partial address (R87): `ChunkImmediate(v)` or `ChunkRegister(r)`. -/
inductive ChunkOf (β : Type) where
  | immediate (v : β)
  | register (r : Reg8)
  deriving DecidableEq, Repr

/-- 8-bit destination operands (R83). An immediate is not one of them. -/
inductive Writable8Of (β ω : Type) where
  | register (r : Reg8)
  | absolute (a : ω)
  | indirect (m : Indirect)
  | partialAddr (hi lo : ChunkOf β)
  deriving DecidableEq, Repr

/-- 16-bit destination operands (R84): the register kind names a `Reg16`. -/
inductive Writable16Of (β ω : Type) where
  | register (rr : Reg16)
  | absolute (a : ω)
  | indirect (m : Indirect)
  | partialAddr (hi lo : ChunkOf β)
  deriving DecidableEq, Repr

/-- The operand inside an 8-bit conditional compound (R94): "register-or-indirect-or-immediate". -/
inductive CondSource8Of (β : Type) where
  | register (r : Reg8)
  | indirect (m : Indirect)
  | immediate (v : β)
  deriving DecidableEq, Repr

/-- The operand inside a 16-bit conditional compound (R86, R94). -/
inductive CondSource16Of (ω : Type) where
  | register (rr : Reg16)
  | indirect (m : Indirect)
  | immediate (v : ω)
  deriving DecidableEq, Repr

/-- 8-bit source operands (R85). -/
inductive Readable8Of (β ω : Type) where
  | register (r : Reg8)
  | immediate (v : β)
  | absolute (a : ω)
  | partialAddr (hi lo : ChunkOf β)
  | indirect (m : Indirect)
  | conditional (f : FlagName) (x : CondSource8Of β)
  deriving DecidableEq, Repr

/-- 16-bit source operands (R86). -/
inductive Readable16Of (β ω : Type) where
  | register (rr : Reg16)
  | immediate (v : ω)
  | absolute (a : ω)
  | partialAddr (hi lo : ChunkOf β)
  | indirect (m : Indirect)
  | conditional (f : FlagName) (x : CondSource16Of ω)
  deriving DecidableEq, Repr

/-- The Instruction type, "one case per operation family" (R80), with the fields of R82 (`load8`) and R95 (the
cases that have no opcode). -/
inductive InstructionOf (β ω : Type) where
  | nop
  | load8 (dst : Writable8Of β ω) (src : Readable8Of β ω)
  | load16 (dst : Writable16Of β ω) (src : Readable16Of β ω)
  | push (src : Readable16Of β ω)
  | pop (dst : Writable16Of β ω)
  | add8 (dst : Writable8Of β ω) (src : Readable8Of β ω) (flags : FlagEffects)
  | sub8 (dst : Writable8Of β ω) (src : Readable8Of β ω) (flags : FlagEffects)
  | and8 (dst : Writable8Of β ω) (src : Readable8Of β ω) (flags : FlagEffects)
  | or8 (dst : Writable8Of β ω) (src : Readable8Of β ω) (flags : FlagEffects)
  | xor8 (dst : Writable8Of β ω) (src : Readable8Of β ω) (flags : FlagEffects)
  | compare8 (lhs rhs : Readable8Of β ω) (flags : FlagEffects)
  | add16 (dst : Writable16Of β ω) (src : Readable16Of β ω) (flags : FlagEffects)
  | inc8 (target : Writable8Of β ω) (flags : FlagEffects)
  | dec8 (target : Writable8Of β ω) (flags : FlagEffects)
  | inc16 (target : Writable16Of β ω) (flags : FlagEffects)
  | dec16 (target : Writable16Of β ω) (flags : FlagEffects)
  | shiftRotate (kind : ShiftKind) (target : Writable8Of β ω) (flags : FlagEffects)
  deriving DecidableEq, Repr

/-- A partial-address chunk as the caller sees it (R87). -/
abbrev Chunk8 := ChunkOf Byte
/-- An 8-bit destination as the caller sees it (R83). -/
abbrev Writable8 := Writable8Of Byte Word16
/-- A 16-bit destination as the caller sees it (R84). -/
abbrev Writable16 := Writable16Of Byte Word16
/-- An 8-bit source as the caller sees it (R85). -/
abbrev Readable8 := Readable8Of Byte Word16
/-- A 16-bit source as the caller sees it (R86). -/
abbrev Readable16 := Readable16Of Byte Word16

/-- The value a successful transaction returns (R80, R81): structural equality, no reference to the stream (R23). -/
abbrev Instruction := InstructionOf Byte Word16

/-- A chunk with its value field rewritten. -/
def ChunkOf.map {β β' : Type} (f : β → β') : ChunkOf β → ChunkOf β'
  | .immediate v => .immediate (f v)
  | .register r => .register r

/-- An 8-bit destination with its value fields rewritten. -/
def Writable8Of.map {β β' ω ω' : Type} (f : β → β') (g : ω → ω') : Writable8Of β ω → Writable8Of β' ω'
  | .register r => .register r
  | .absolute a => .absolute (g a)
  | .indirect m => .indirect m
  | .partialAddr hi lo => .partialAddr (hi.map f) (lo.map f)

/-- A 16-bit destination with its value fields rewritten. -/
def Writable16Of.map {β β' ω ω' : Type} (f : β → β') (g : ω → ω') : Writable16Of β ω → Writable16Of β' ω'
  | .register rr => .register rr
  | .absolute a => .absolute (g a)
  | .indirect m => .indirect m
  | .partialAddr hi lo => .partialAddr (hi.map f) (lo.map f)

/-- The inside of an 8-bit conditional compound with its value field rewritten. -/
def CondSource8Of.map {β β' : Type} (f : β → β') : CondSource8Of β → CondSource8Of β'
  | .register r => .register r
  | .indirect m => .indirect m
  | .immediate v => .immediate (f v)

/-- The inside of a 16-bit conditional compound with its value field rewritten. -/
def CondSource16Of.map {ω ω' : Type} (g : ω → ω') : CondSource16Of ω → CondSource16Of ω'
  | .register rr => .register rr
  | .indirect m => .indirect m
  | .immediate v => .immediate (g v)

/-- An 8-bit source with its value fields rewritten. -/
def Readable8Of.map {β β' ω ω' : Type} (f : β → β') (g : ω → ω') : Readable8Of β ω → Readable8Of β' ω'
  | .register r => .register r
  | .immediate v => .immediate (f v)
  | .absolute a => .absolute (g a)
  | .partialAddr hi lo => .partialAddr (hi.map f) (lo.map f)
  | .indirect m => .indirect m
  | .conditional c x => .conditional c (x.map f)

/-- A 16-bit source with its value fields rewritten. -/
def Readable16Of.map {β β' ω ω' : Type} (f : β → β') (g : ω → ω') : Readable16Of β ω → Readable16Of β' ω'
  | .register rr => .register rr
  | .immediate v => .immediate (g v)
  | .absolute a => .absolute (g a)
  | .partialAddr hi lo => .partialAddr (hi.map f) (lo.map f)
  | .indirect m => .indirect m
  | .conditional c x => .conditional c (x.map g)

/-- An Instruction with its value fields rewritten and everything else kept: "everything but the immediate value
fields is constant" (R58). -/
def InstructionOf.map {β β' ω ω' : Type} (f : β → β') (g : ω → ω') : InstructionOf β ω → InstructionOf β' ω'
  | .nop => .nop
  | .load8 d s => .load8 (d.map f g) (s.map f g)
  | .load16 d s => .load16 (d.map f g) (s.map f g)
  | .push s => .push (s.map f g)
  | .pop d => .pop (d.map f g)
  | .add8 d s fl => .add8 (d.map f g) (s.map f g) fl
  | .sub8 d s fl => .sub8 (d.map f g) (s.map f g) fl
  | .and8 d s fl => .and8 (d.map f g) (s.map f g) fl
  | .or8 d s fl => .or8 (d.map f g) (s.map f g) fl
  | .xor8 d s fl => .xor8 (d.map f g) (s.map f g) fl
  | .compare8 l r fl => .compare8 (l.map f g) (r.map f g) fl
  | .add16 d s fl => .add16 (d.map f g) (s.map f g) fl
  | .inc8 t fl => .inc8 (t.map f g) fl
  | .dec8 t fl => .dec8 (t.map f g) fl
  | .inc16 t fl => .inc16 (t.map f g) fl
  | .dec16 t fl => .dec16 (t.map f g) fl
  | .shiftRotate k t fl => .shiftRotate k (t.map f g) fl

end Sys2Proof
end

