-- ==== Sys2Proof/Config.lean ====
section
/-! DEFINITION. The parameters of the block (00_scope.md R5) and the recipes their table extensions hold
(30_encoding.md R58, R64, R65). A recipe is plain data: an Instruction some of whose value fields are slots that the
pulled immediate bytes fill. -/

namespace Sys2Proof

/-- "The registered prefix-byte set (currently `{0xCB}`)": fixed, "a model does not take it as an argument"
(43_prefix_cb.md R153, D8; U3, U5). -/
def prefixSet : List Byte := [0xCB#8]

/-- `IMM16_ORDER` (R64, D9): how the two bytes of a 16-bit immediate form the value. -/
inductive ByteOrder where
  | lowFirst | highFirst
  deriving DecidableEq, Repr

/-- An 8-bit value field of a recipe that pulls `n` bytes: a constant, or the `k`-th byte pulled. -/
inductive Slot8 (n : Nat) where
  | const (v : Byte)
  | pulled (k : Fin n)
  deriving DecidableEq, Repr

/-- A 16-bit value field of a recipe that pulls two bytes: a constant, or the 16-bit immediate (R64). -/
inductive Slot16 where
  | const (v : Word16)
  | pulled
  deriving DecidableEq, Repr

/-- A recipe `(n, build)` (R58), named after the format of its bytes (R53): `op` pulls none, `opI8` one, `opI16`
two ("2 only under rule R64"). -/
inductive Recipe where
  | op (i : Instruction)
  | opI8 (t : InstructionOf (Slot8 1) Word16)
  | opI16 (t : InstructionOf (Slot8 2) Slot16)
  deriving DecidableEq, Repr

/-- A partial map from byte values to recipes (R5, R65): pairs in strictly rising order of the byte. -/
abbrev TableExt := List (Byte × Recipe)

/-- The parameters a session is created with (R5). `img` and its length stand in State. -/
structure Params where
  /-- `BASE_TABLE_EXT` -/
  baseExt    : TableExt
  /-- `PREFIX_TABLE_CB_EXT` -/
  cbExt      : TableExt
  /-- `IMM16_ORDER`, unset by default (D9) -/
  imm16Order : Option ByteOrder
  /-- `POS_BITS`, `none` for the unbounded cursor (D3) -/
  posBits    : Option Nat
  deriving DecidableEq, Repr

/-- The reference configuration: the third column of R5. -/
def Params.reference : Params :=
  { baseExt := [], cbExt := [], imm16Order := none, posBits := none }

end Sys2Proof
end

