-- ==== Sys2Proof/Machine/State.lean ====
section
/-! DEFINITION. The state of the block as plain data: the cursor (10_state.md R10), the session's parameters that the
one-argument step must find somewhere (00_scope.md R5: the image and the table extensions), and the output ports of
the last transaction (41_decode_transaction.md R121). Then the reasons a step stops, and the state after reset. -/

namespace Sys2Proof.Machine

/-- `OpId`, a pair `(prefix, opcode)` (R111, D22). -/
structure OpId where
  pfx    : Option Byte
  opcode : Byte
  deriving DecidableEq, Repr

/-- The four failure kinds with the information each records (60_exceptions.md R190 to R196). -/
inductive Failure where
  /-- the image is at its end and nothing was consumed (R191) -/
  | streamExhausted
  /-- the first byte is no prefix and its base entry is Unknown (R192) -/
  | unknownBaseOpcode (byte : Byte)
  /-- a prefix, then a byte whose entry in that prefix's table is Unknown (R193) -/
  | unknownPrefixedOpcode (pfx byte : Byte)
  /-- the image ends before every byte the instruction requires was pulled (R194) -/
  | truncatedOperand (opcode : OpId) (bytesNeeded bytesAvailable : Nat)
  deriving DecidableEq, Repr

/-- `Outcome = Ok(Instruction) | Fail(kind, info)` (R111): a sum, so a failure carries no Instruction (R117, D26). -/
inductive DecodeOutcome where
  | ok (i : Instruction)
  | fail (f : Failure)
  deriving DecidableEq, Repr

/-- The output ports at the end of a transaction (R121): the outcome (from which `ok`, `instr`, `err_kind` and
`err_info` are read, Sys2Proof/Machine/Ports.lean) and the number of bytes consumed (R122). -/
structure Ports where
  outcome  : DecodeOutcome
  consumed : Nat
  deriving DecidableEq, Repr

/-- The program image: (index, byte) cells (20_memory.md R39). Its one canonical form and its reading are in
Sys2Proof/Machine/Ops.lean. An index that is not listed has no byte (log 5). -/
abbrev Memory := List Host.Cell

structure State where
  /-- the cursor `pos`, also written `pc`: the index of the next byte the stream delivers (R10, R11) -/
  pos    : Nat
  /-- the program image `IMG`, a parameter of the session (R14): no step changes it -/
  img    : Memory
  /-- the parameters of the session (R5): no step changes them -/
  params : Params
  /-- the output ports of the last transaction, `none` before the first: the model's own field, read by no step
  (R10, R22, R23; log 2) -/
  ports  : Option Ports
  deriving DecidableEq, Repr

/-- What stops the model with a fault. -/
inductive Fault where
  /-- raised by `step` (Sys2Proof/Machine/Launch.lean) when the State value is no state of the machine: the cursor is
  beyond the end of the image, or the cells of the image are not the indices `0 .. LEN-1`. R12 and R39 exclude both and
  no run from reset meets either. Safe: the model stops where the hardware has no state. -/
  | cursorOutsideImage
  deriving DecidableEq, Repr

/-- What the model refuses to run. -/
inductive Refusal where
  /-- raised by `exec` alone, for an instruction that has no meaning yet. Safe: nothing is claimed of it. -/
  | notModelled (mnemonic : String)
  /-- raised by `step` before it runs, and by `construct`, for a table extension with a recipe of two immediate bytes
  while `IMM16_ORDER` is unset: "A model must refuse (not guess)" (30_encoding.md R64; U1). Safe. -/
  | imm16OrderUnset
  /-- raised by `step` before it runs, for an image of `2^POS_BITS` bytes or more (10_state.md R12; U18). Safe. -/
  | imageTooLong
  /-- raised by `step` before it runs, for a table extension that is no partial map in rising order or that redefines a
  sourced opcode or the prefix (30_encoding.md R65 (a)). Safe: such a value is no configuration of the hardware. -/
  | extensionMalformed
  deriving DecidableEq, Repr

/-- The state after reset: a session just created (70_reset_and_hazards.md R220, R221; 10_state.md R22) in the
reference configuration, over the image with no byte (R223; DESIGN CHOICE, log 4), no transaction run yet. -/
def State.reset : State :=
  { pos := 0, img := [], params := Params.reference, ports := none }

end Sys2Proof.Machine
end

