-- ==== Sys2Proof/Machine/Ops.lean ====
section
/-! DEFINITION. The named operations over the image, the stream and the ports: reading the image (20_memory.md), the
two stream operations (R32, R33), ending a transaction, with success or with a failure (the block's only exception,
60_exceptions.md R199), and creating a session (70_reset_and_hazards.md R220). -/

namespace Sys2Proof.Machine

/-- `LEN`, the number of bytes of the image (R5). -/
def Memory.len (m : Memory) : Nat := m.length

/-- `MemRead(addr, 1)`: the byte at an index, or no byte outside the image (R36, R39). -/
def Memory.read : Memory → Nat → Option Byte
  | [], _ => none
  | (k, b) :: m, a => if k = a then some b else Memory.read m a

/-- The canonical form of an image: its cells are the indices `0 .. LEN-1`, rising, each once (R39). -/
abbrev Memory.wf (m : Memory) : Prop := m.map Prod.fst = List.range m.length

/-- The cells of a byte sequence placed from an index on. -/
def Memory.cellsFrom (a : Nat) : List Byte → Memory
  | [] => []
  | b :: bs => (a, b) :: Memory.cellsFrom (a + 1) bs

/-- The image of an ordered byte sequence (R14). -/
def Memory.ofBytes (bs : List Byte) : Memory := Memory.cellsFrom 0 bs

/-- The image whose bytes below index `a` are those of `m` and whose last bytes, from `a` on, are `bs`. -/
def Memory.placeAt (m : Memory) (a : Nat) (bs : List Byte) : Memory :=
  m.filter (fun c => c.1 < a) ++ Memory.cellsFrom a bs

/-- At most `k` bytes of the image from index `a` on, up to the first index without a byte. -/
def Memory.window (m : Memory) : Nat → Nat → List Byte
  | 0, _ => []
  | k + 1, a =>
    match Memory.read m a with
    | some b => b :: Memory.window m k (a + 1)
    | none => []

/-- The bytes the stream has still to deliver when its cursor is at `a`, in stream order (R35). -/
def Memory.bytesFrom (m : Memory) (a : Nat) : List Byte := Memory.window m (Memory.len m) a

/-- The bytes the stream has still to deliver. -/
def State.ahead (s : State) : List Byte := Memory.bytesFrom s.img s.pos

/-- `StreamResult = Byte(b) | Exhausted` (R31). -/
inductive StreamResult where
  | byte (b : Byte)
  | exhausted
  deriving DecidableEq, Repr

/-- `Peek()` (R32): the next byte, or `Exhausted`; nothing changes. -/
def peek (s : State) : StreamResult :=
  match Memory.read s.img s.pos with
  | some b => .byte b
  | none => .exhausted

/-- `Next()` (R33): the next byte with the cursor one further, or `Exhausted` with the cursor unchanged (D23). -/
def next (s : State) : StreamResult × State :=
  match Memory.read s.img s.pos with
  | some b => (.byte b, { s with pos := s.pos + 1 })
  | none => (.exhausted, s)

/-- The end of a transaction that consumed `n` bytes: the cursor stands after them and the ports carry the outcome and
the count (R116, R117, R121, R122). -/
def conclude (n : Nat) (o : DecodeOutcome) (s : State) : State :=
  { s with pos := s.pos + n, ports := some { outcome := o, consumed := n } }

/-- `return Ok(i)` after `n` bytes (R116). -/
def returnOk (n : Nat) (i : Instruction) (s : State) : State := conclude n (.ok i) s

/-- `raise K(info)` after `n` bytes: the one way an exception is taken (R199). It "saves no state and redirects
nothing"; the bytes already consumed stay consumed (R117). There is no return from it: the next transaction starts at
the cursor it left (R201). -/
def raiseFailure (n : Nat) (f : Failure) (s : State) : State := conclude n (.fail f) s

/-- What the caller may do between transactions (R228): its own `Next()`. -/
def callerNext (s : State) : State := (next s).2

/-- The creation of a decode session over an image (R220): the block's reset. -/
def State.session (p : Params) (bytes : List Byte) : State :=
  { pos := 0, img := Memory.ofBytes bytes, params := p, ports := none }

end Sys2Proof.Machine
end

