-- ==== Sys2Proof/Machine/Operands.lean ====
section
/-! DEFINITION. The operand forms: filling the value fields of a recipe with the pulled immediate bytes
(30_encoding.md R57, R58, R64), the operand codes of the optional profile (45_ext_ld8_profile.md R181), and the address
a partial-address operand names (40_instruction_model.md R87). -/

namespace Sys2Proof.Machine

/-- The 8-bit immediate is "taken as it is" (R57): the slot of a one-byte recipe. -/
def fillOne (v : Byte) : Slot8 1 → Byte
  | .const c => c
  | .pulled _ => v

/-- The 8-bit slot of a two-byte recipe: a constant or one of the two bytes pulled, in stream order (R64). -/
def fillTwo (v1 v2 : Byte) : Slot8 2 → Byte
  | .const c => c
  | .pulled k => if k = 0 then v1 else v2

/-- The value of a 16-bit immediate: `b1 + 256 * b2` when `LowFirst`, `256 * b1 + b2` when `HighFirst` (R64). -/
def imm16 : ByteOrder → Byte → Byte → Word16
  | .lowFirst, b1, b2 => BitVec.ofNat 16 (b1.toNat + 256 * b2.toNat)
  | .highFirst, b1, b2 => BitVec.ofNat 16 (256 * b1.toNat + b2.toNat)

/-- The 16-bit slot of a two-byte recipe. -/
def fillWord (w : Word16) : Slot16 → Word16
  | .const c => c
  | .pulled => w

/-- `n`, "the number of immediate bytes the opcode requires" (R58). -/
def immBytes : Recipe → Nat
  | .op _ => 0
  | .opI8 _ => 1
  | .opI16 _ => 2

/-- `build`, on a sequence of exactly `n` bytes (R58, R114). It has no value for another number of bytes, nor for a
two-byte recipe while the order is unset (R64). -/
def buildInstr (order : Option ByteOrder) : Recipe → List Byte → Option Instruction
  | .op i, [] => some i
  | .opI8 t, [v] => some (t.map (fillOne v) id)
  | .opI16 t, [v1, v2] => order.map fun o => t.map (fillTwo v1 v2) (fillWord (imm16 o v1 v2))
  | _, _ => none

/-- The register named by an operand code, `none` for the code `110` of `Indirect(HL)` (R181). -/
def codeReg8 (c : BitVec 3) : Option Reg8 :=
  if c = 0b000#3 then some .B else if c = 0b001#3 then some .C else if c = 0b010#3 then some .D
  else if c = 0b011#3 then some .E else if c = 0b100#3 then some .H else if c = 0b101#3 then some .L
  else if c = 0b111#3 then some .A else none

/-- An operand code as destination (R181). -/
def codeDst {β ω : Type} (c : BitVec 3) : Writable8Of β ω :=
  match codeReg8 c with
  | some r => .register r
  | none => .indirect .HL

/-- An operand code as source (R181). -/
def codeSrc {β ω : Type} (c : BitVec 3) : Readable8Of β ω :=
  match codeReg8 c with
  | some r => .register r
  | none => .indirect .HL

/-- The value of a chunk once the external engine has read its registers (R87). The decoder never calls it. -/
def chunkValue (regs : Reg8 → Byte) : Chunk8 → Byte
  | .immediate v => v
  | .register r => regs r

/-- The address `Partial(hi, lo)` names: `256 * value(hi) + value(lo)` (R87, D18). -/
def partialAddress (regs : Reg8 → Byte) (hi lo : Chunk8) : Word16 :=
  BitVec.ofNat 16 (256 * (chunkValue regs hi).toNat + (chunkValue regs lo).toNat)

end Sys2Proof.Machine
end

