-- ==== Sys2Proof/Machine/Tables.lean ====
section
/-! DEFINITION. The opcode tables: the four sourced recipes (30_encoding.md R60), the optional extension EXT_LD8
(45_ext_ld8_profile.md), the merge of the extensions (R65, R154) and the two total lookups (R59), in which `none` is
`Unknown`. -/

namespace Sys2Proof.Machine

/-- The four recipes of `BASE_TABLE` the source gives (R60; 42_load8.md R141 to R144). -/
def sourcedTable : TableExt :=
  [(0x06#8, .opI8 (.load8 (.register .B) (.immediate (.pulled 0)))),
   (0x36#8, .opI8 (.load8 (.indirect .HL) (.immediate (.pulled 0)))),
   (0x7E#8, .op (.load8 (.register .A) (.indirect .HL))),
   (0x7F#8, .op (.load8 (.register .A) (.register .A)))]

/-- One recipe `Load8(dst, src)` for each source of the list, at consecutive opcodes from `first` on. -/
def loadsFrom (first : Byte) (dst : Writable8) : List Readable8 → TableExt
  | [] => []
  | src :: srcs => (first, .op (.load8 dst src)) :: loadsFrom (first + 1#8) dst srcs

/-- The sources of the operand codes `000` to `101`, `110`, `111` in order (R181). -/
def sources : List Readable8 :=
  [.register .B, .register .C, .register .D, .register .E, .register .H, .register .L, .indirect .HL, .register .A]

/-- The recipe of an immediate load (R183). -/
def loadImm (dst : Writable8Of (Slot8 1) Word16) : Recipe := .opI8 (.load8 dst (.immediate (.pulled 0)))

/-- The extension EXT_LD8 row by row: 6 immediate loads and 61 register and indirect loads (R182, R183); `0x76` and the
four sourced opcodes are not in it. -/
def extLd8 : TableExt :=
  [(0x0E#8, loadImm (.register .C)), (0x16#8, loadImm (.register .D)), (0x1E#8, loadImm (.register .E)),
   (0x26#8, loadImm (.register .H)), (0x2E#8, loadImm (.register .L)), (0x3E#8, loadImm (.register .A))]
  ++ loadsFrom 0x40#8 (.register .B) sources
  ++ loadsFrom 0x48#8 (.register .C) sources
  ++ loadsFrom 0x50#8 (.register .D) sources
  ++ loadsFrom 0x58#8 (.register .E) sources
  ++ loadsFrom 0x60#8 (.register .H) sources
  ++ loadsFrom 0x68#8 (.register .L) sources
  ++ loadsFrom 0x70#8 (.indirect .HL) (sources.take 6)
  ++ loadsFrom 0x77#8 (.indirect .HL) [.register .A]
  ++ loadsFrom 0x78#8 (.register .A) (sources.take 6)

/-- The reference configuration with the profile loaded (R180). -/
def profileExtLd8 : Params := { Params.reference with baseExt := extLd8 }

/-- `BASE_TABLE[b]`: a sourced recipe, else the extension's, else `Unknown` (R60, R65 (c)). The entry of a prefix byte
is `Unknown` (R162). -/
def baseEntry (p : Params) (b : Byte) : Option Recipe :=
  if prefixSet.contains b then none else (sourcedTable.lookup b).or (p.baseExt.lookup b)

/-- `PREFIX_TABLE[pfx][b]`: the extension's recipe, else `Unknown` (R61, R154). -/
def prefixEntry (p : Params) (pfx b : Byte) : Option Recipe :=
  if prefixSet.contains pfx then p.cbExt.lookup b else none

/-- The most immediate bytes a recipe of a table requires. -/
def maxImmBytes : TableExt → Nat
  | [] => 0
  | e :: t => max (immBytes e.2) (maxImmBytes t)

/-- `MAX_LEN`: `1 + (1 if prefixed) + max n` (R5, D27); the pair of a prefix and an unknown byte counts 2 (R52). -/
def maxLen (p : Params) : Nat :=
  max (1 + maxImmBytes (sourcedTable ++ p.baseExt)) (2 + maxImmBytes p.cbExt)

/-- The keys of an extension rise strictly: it is a partial map in its one canonical form (log 8). -/
def keysRise : TableExt → Bool
  | [] => true
  | [_] => true
  | e :: e' :: t => decide (e.1.toNat < e'.1.toNat) && keysRise (e' :: t)

/-- R65 (a): "the domain of `BASE_TABLE_EXT` contains none of `0x06`, `0x36`, `0x7E`, `0x7F` and no member of
`PREFIX_SET`". -/
def avoidsSourced (t : TableExt) : Bool :=
  t.all fun e => !prefixSet.contains e.1 && (sourcedTable.lookup e.1).isNone

/-- A recipe that pulls two bytes needs `IMM16_ORDER` (R64). -/
def needsOrder (p : Params) : Bool := (p.baseExt ++ p.cbExt).any fun e => immBytes e.2 == 2

end Sys2Proof.Machine
end

