-- ==== Sys2Proof/Machine/Rows.lean ====
section
/-! DEFINITION. The shared operations the meanings are lines over: the Construct step (41_decode_transaction.md R111,
R114, R115) and one operation for each way a transaction starts. An instruction brings the bytes of its own row; the
bytes a recipe pulls beyond them are those of the image that follow (log 17). -/

namespace Sys2Proof.Machine

/-- `Construct(op, n, bld)` once the opcode has been looked up (R111): `h` bytes are consumed already, `pending` are the
bytes the stream delivers next. With all `n` immediate bytes there the Instruction is built and exactly `n` more bytes
are consumed; otherwise those that are there stay consumed and the failure tells how many they were (R115, R194). -/
def construct (op : OpId) (r : Recipe) (h : Nat) (pending : List Byte) (s : State) :
    Host.Outcome State Fault Refusal :=
  if immBytes r ≤ pending.length then
    match buildInstr s.params.imm16Order r (pending.take (immBytes r)) with
    | some i => .next (returnOk (h + immBytes r) i s)
    | none => .refused .imm16OrderUnset
  else
    .next (raiseFailure (h + pending.length) (.truncatedOperand op (immBytes r) pending.length) s)

/-- What the stream delivers after the first `h` bytes of an instruction at the cursor: the row's own bytes `own`, then
the image. -/
def pendingAfter (h : Nat) (own : List Byte) (s : State) : List Byte :=
  own ++ Memory.bytesFrom s.img (s.pos + h + own.length)

/-- A transaction whose first byte is `f`, no prefix, with the bytes `own` of its row after it: lookup in `BASE_TABLE`,
then Construct or `UnknownBaseOpcode` (R111, R113, R160). -/
def baseRow (f : Byte) (own : List Byte) (s : State) : Host.Outcome State Fault Refusal :=
  match baseEntry s.params f with
  | some r => construct { pfx := none, opcode := f } r 1 (pendingAfter 1 own s) s
  | none => .next (raiseFailure 1 (.unknownBaseOpcode f) s)

/-- A transaction that starts with the prefix `pfx` and the byte `b`: lookup in `PREFIX_TABLE[pfx]` and nowhere else
(R126), then Construct or `UnknownPrefixedOpcode` (R111, R151, R154). -/
def prefixedRow (pfx b : Byte) (s : State) : Host.Outcome State Fault Refusal :=
  match prefixEntry s.params pfx b with
  | some r => construct { pfx := some pfx, opcode := b } r 2 (pendingAfter 2 [] s) s
  | none => .next (raiseFailure 2 (.unknownPrefixedOpcode pfx b) s)

/-- A transaction that starts with the prefix `pfx` as the last byte of the image (43_prefix_cb.md R152, D7). -/
def danglingRow (pfx : Byte) (s : State) : Host.Outcome State Fault Refusal :=
  .next (raiseFailure 1 (.truncatedOperand { pfx := none, opcode := pfx } 1 0) s)

end Sys2Proof.Machine
end

