-- ==== Sys2Proof/Machine/ExtLd8.lean ====
section
/-! DEFINITION. The 67 rows of the optional extension EXT_LD8 (45_ext_ld8_profile.md R180 to R183). Each docstring gives
the outcome with the profile loaded (`extLd8`, Sys2Proof/Machine/Tables.lean); an immediate row consumes 2 bytes, the
others 1. Without it the same transaction finds `Unknown`, consumes 1 byte and fails with `UnknownBaseOpcode` (R160). -/

namespace Sys2Proof.Machine

/-- LD C,d8, `0x0E`: `Load8(Register(C), Immediate(i))` (R183). -/
def execLdCImm (i : Byte) (s : State) : Host.Outcome State Fault Refusal := baseRow 0x0E#8 [i] s

/-- LD D,d8, `0x16`: `Load8(Register(D), Immediate(i))` (R183). -/
def execLdDImm (i : Byte) (s : State) : Host.Outcome State Fault Refusal := baseRow 0x16#8 [i] s

/-- LD E,d8, `0x1E`: `Load8(Register(E), Immediate(i))` (R183). -/
def execLdEImm (i : Byte) (s : State) : Host.Outcome State Fault Refusal := baseRow 0x1E#8 [i] s

/-- LD H,d8, `0x26`: `Load8(Register(H), Immediate(i))` (R183). -/
def execLdHImm (i : Byte) (s : State) : Host.Outcome State Fault Refusal := baseRow 0x26#8 [i] s

/-- LD L,d8, `0x2E`: `Load8(Register(L), Immediate(i))` (R183). -/
def execLdLImm (i : Byte) (s : State) : Host.Outcome State Fault Refusal := baseRow 0x2E#8 [i] s

/-- LD A,d8, `0x3E`: `Load8(Register(A), Immediate(i))` (R183). -/
def execLdAImm (i : Byte) (s : State) : Host.Outcome State Fault Refusal := baseRow 0x3E#8 [i] s

/-- LD B,B, `0x40`: `Load8(Register(B), Register(B))` (R182). -/
def execLdBB (s : State) : Host.Outcome State Fault Refusal := baseRow 0x40#8 [] s

/-- LD B,C, `0x41`: `Load8(Register(B), Register(C))` (R182). -/
def execLdBC (s : State) : Host.Outcome State Fault Refusal := baseRow 0x41#8 [] s

/-- LD B,D, `0x42`: `Load8(Register(B), Register(D))` (R182). -/
def execLdBD (s : State) : Host.Outcome State Fault Refusal := baseRow 0x42#8 [] s

/-- LD B,E, `0x43`: `Load8(Register(B), Register(E))` (R182). -/
def execLdBE (s : State) : Host.Outcome State Fault Refusal := baseRow 0x43#8 [] s

/-- LD B,H, `0x44`: `Load8(Register(B), Register(H))` (R182). -/
def execLdBH (s : State) : Host.Outcome State Fault Refusal := baseRow 0x44#8 [] s

/-- LD B,L, `0x45`: `Load8(Register(B), Register(L))` (R182). -/
def execLdBL (s : State) : Host.Outcome State Fault Refusal := baseRow 0x45#8 [] s

/-- LD B,(HL), `0x46`: `Load8(Register(B), Indirect(HL))` (R182). -/
def execLdBInd (s : State) : Host.Outcome State Fault Refusal := baseRow 0x46#8 [] s

/-- LD B,A, `0x47`: `Load8(Register(B), Register(A))` (R182). -/
def execLdBA (s : State) : Host.Outcome State Fault Refusal := baseRow 0x47#8 [] s

/-- LD C,B, `0x48`: `Load8(Register(C), Register(B))` (R182). -/
def execLdCB (s : State) : Host.Outcome State Fault Refusal := baseRow 0x48#8 [] s

/-- LD C,C, `0x49`: `Load8(Register(C), Register(C))` (R182). -/
def execLdCC (s : State) : Host.Outcome State Fault Refusal := baseRow 0x49#8 [] s

/-- LD C,D, `0x4A`: `Load8(Register(C), Register(D))` (R182). -/
def execLdCD (s : State) : Host.Outcome State Fault Refusal := baseRow 0x4A#8 [] s

/-- LD C,E, `0x4B`: `Load8(Register(C), Register(E))` (R182). -/
def execLdCE (s : State) : Host.Outcome State Fault Refusal := baseRow 0x4B#8 [] s

/-- LD C,H, `0x4C`: `Load8(Register(C), Register(H))` (R182). -/
def execLdCH (s : State) : Host.Outcome State Fault Refusal := baseRow 0x4C#8 [] s

/-- LD C,L, `0x4D`: `Load8(Register(C), Register(L))` (R182). -/
def execLdCL (s : State) : Host.Outcome State Fault Refusal := baseRow 0x4D#8 [] s

/-- LD C,(HL), `0x4E`: `Load8(Register(C), Indirect(HL))` (R182). -/
def execLdCInd (s : State) : Host.Outcome State Fault Refusal := baseRow 0x4E#8 [] s

/-- LD C,A, `0x4F`: `Load8(Register(C), Register(A))` (R182). -/
def execLdCA (s : State) : Host.Outcome State Fault Refusal := baseRow 0x4F#8 [] s

/-- LD D,B, `0x50`: `Load8(Register(D), Register(B))` (R182). -/
def execLdDB (s : State) : Host.Outcome State Fault Refusal := baseRow 0x50#8 [] s

/-- LD D,C, `0x51`: `Load8(Register(D), Register(C))` (R182). -/
def execLdDC (s : State) : Host.Outcome State Fault Refusal := baseRow 0x51#8 [] s

/-- LD D,D, `0x52`: `Load8(Register(D), Register(D))` (R182). -/
def execLdDD (s : State) : Host.Outcome State Fault Refusal := baseRow 0x52#8 [] s

/-- LD D,E, `0x53`: `Load8(Register(D), Register(E))` (R182). -/
def execLdDE (s : State) : Host.Outcome State Fault Refusal := baseRow 0x53#8 [] s

/-- LD D,H, `0x54`: `Load8(Register(D), Register(H))` (R182). -/
def execLdDH (s : State) : Host.Outcome State Fault Refusal := baseRow 0x54#8 [] s

/-- LD D,L, `0x55`: `Load8(Register(D), Register(L))` (R182). -/
def execLdDL (s : State) : Host.Outcome State Fault Refusal := baseRow 0x55#8 [] s

/-- LD D,(HL), `0x56`: `Load8(Register(D), Indirect(HL))` (R182). -/
def execLdDInd (s : State) : Host.Outcome State Fault Refusal := baseRow 0x56#8 [] s

/-- LD D,A, `0x57`: `Load8(Register(D), Register(A))` (R182). -/
def execLdDA (s : State) : Host.Outcome State Fault Refusal := baseRow 0x57#8 [] s

/-- LD E,B, `0x58`: `Load8(Register(E), Register(B))` (R182). -/
def execLdEB (s : State) : Host.Outcome State Fault Refusal := baseRow 0x58#8 [] s

/-- LD E,C, `0x59`: `Load8(Register(E), Register(C))` (R182). -/
def execLdEC (s : State) : Host.Outcome State Fault Refusal := baseRow 0x59#8 [] s

/-- LD E,D, `0x5A`: `Load8(Register(E), Register(D))` (R182). -/
def execLdED (s : State) : Host.Outcome State Fault Refusal := baseRow 0x5A#8 [] s

/-- LD E,E, `0x5B`: `Load8(Register(E), Register(E))` (R182). -/
def execLdEE (s : State) : Host.Outcome State Fault Refusal := baseRow 0x5B#8 [] s

/-- LD E,H, `0x5C`: `Load8(Register(E), Register(H))` (R182). -/
def execLdEH (s : State) : Host.Outcome State Fault Refusal := baseRow 0x5C#8 [] s

/-- LD E,L, `0x5D`: `Load8(Register(E), Register(L))` (R182). -/
def execLdEL (s : State) : Host.Outcome State Fault Refusal := baseRow 0x5D#8 [] s

/-- LD E,(HL), `0x5E`: `Load8(Register(E), Indirect(HL))` (R182). -/
def execLdEInd (s : State) : Host.Outcome State Fault Refusal := baseRow 0x5E#8 [] s

/-- LD E,A, `0x5F`: `Load8(Register(E), Register(A))` (R182). -/
def execLdEA (s : State) : Host.Outcome State Fault Refusal := baseRow 0x5F#8 [] s

/-- LD H,B, `0x60`: `Load8(Register(H), Register(B))` (R182). -/
def execLdHB (s : State) : Host.Outcome State Fault Refusal := baseRow 0x60#8 [] s

/-- LD H,C, `0x61`: `Load8(Register(H), Register(C))` (R182). -/
def execLdHC (s : State) : Host.Outcome State Fault Refusal := baseRow 0x61#8 [] s

/-- LD H,D, `0x62`: `Load8(Register(H), Register(D))` (R182). -/
def execLdHD (s : State) : Host.Outcome State Fault Refusal := baseRow 0x62#8 [] s

/-- LD H,E, `0x63`: `Load8(Register(H), Register(E))` (R182). -/
def execLdHE (s : State) : Host.Outcome State Fault Refusal := baseRow 0x63#8 [] s

/-- LD H,H, `0x64`: `Load8(Register(H), Register(H))` (R182). -/
def execLdHH (s : State) : Host.Outcome State Fault Refusal := baseRow 0x64#8 [] s

/-- LD H,L, `0x65`: `Load8(Register(H), Register(L))` (R182). -/
def execLdHL (s : State) : Host.Outcome State Fault Refusal := baseRow 0x65#8 [] s

/-- LD H,(HL), `0x66`: `Load8(Register(H), Indirect(HL))` (R182). -/
def execLdHInd (s : State) : Host.Outcome State Fault Refusal := baseRow 0x66#8 [] s

/-- LD H,A, `0x67`: `Load8(Register(H), Register(A))` (R182). -/
def execLdHA (s : State) : Host.Outcome State Fault Refusal := baseRow 0x67#8 [] s

/-- LD L,B, `0x68`: `Load8(Register(L), Register(B))` (R182). -/
def execLdLB (s : State) : Host.Outcome State Fault Refusal := baseRow 0x68#8 [] s

/-- LD L,C, `0x69`: `Load8(Register(L), Register(C))` (R182). -/
def execLdLC (s : State) : Host.Outcome State Fault Refusal := baseRow 0x69#8 [] s

/-- LD L,D, `0x6A`: `Load8(Register(L), Register(D))` (R182). -/
def execLdLD (s : State) : Host.Outcome State Fault Refusal := baseRow 0x6A#8 [] s

/-- LD L,E, `0x6B`: `Load8(Register(L), Register(E))` (R182). -/
def execLdLE (s : State) : Host.Outcome State Fault Refusal := baseRow 0x6B#8 [] s

/-- LD L,H, `0x6C`: `Load8(Register(L), Register(H))` (R182). -/
def execLdLH (s : State) : Host.Outcome State Fault Refusal := baseRow 0x6C#8 [] s

/-- LD L,L, `0x6D`: `Load8(Register(L), Register(L))` (R182). -/
def execLdLL (s : State) : Host.Outcome State Fault Refusal := baseRow 0x6D#8 [] s

/-- LD L,(HL), `0x6E`: `Load8(Register(L), Indirect(HL))` (R182). -/
def execLdLInd (s : State) : Host.Outcome State Fault Refusal := baseRow 0x6E#8 [] s

/-- LD L,A, `0x6F`: `Load8(Register(L), Register(A))` (R182). -/
def execLdLA (s : State) : Host.Outcome State Fault Refusal := baseRow 0x6F#8 [] s

/-- LD (HL),B, `0x70`: `Load8(Indirect(HL), Register(B))` (R182). -/
def execLdIndB (s : State) : Host.Outcome State Fault Refusal := baseRow 0x70#8 [] s

/-- LD (HL),C, `0x71`: `Load8(Indirect(HL), Register(C))` (R182). -/
def execLdIndC (s : State) : Host.Outcome State Fault Refusal := baseRow 0x71#8 [] s

/-- LD (HL),D, `0x72`: `Load8(Indirect(HL), Register(D))` (R182). -/
def execLdIndD (s : State) : Host.Outcome State Fault Refusal := baseRow 0x72#8 [] s

/-- LD (HL),E, `0x73`: `Load8(Indirect(HL), Register(E))` (R182). -/
def execLdIndE (s : State) : Host.Outcome State Fault Refusal := baseRow 0x73#8 [] s

/-- LD (HL),H, `0x74`: `Load8(Indirect(HL), Register(H))` (R182). -/
def execLdIndH (s : State) : Host.Outcome State Fault Refusal := baseRow 0x74#8 [] s

/-- LD (HL),L, `0x75`: `Load8(Indirect(HL), Register(L))` (R182). -/
def execLdIndL (s : State) : Host.Outcome State Fault Refusal := baseRow 0x75#8 [] s

/-- LD (HL),A, `0x77`: `Load8(Indirect(HL), Register(A))` (R182). -/
def execLdIndA (s : State) : Host.Outcome State Fault Refusal := baseRow 0x77#8 [] s

/-- LD A,B, `0x78`: `Load8(Register(A), Register(B))` (R182). -/
def execLdAB (s : State) : Host.Outcome State Fault Refusal := baseRow 0x78#8 [] s

/-- LD A,C, `0x79`: `Load8(Register(A), Register(C))` (R182). -/
def execLdAC (s : State) : Host.Outcome State Fault Refusal := baseRow 0x79#8 [] s

/-- LD A,D, `0x7A`: `Load8(Register(A), Register(D))` (R182). -/
def execLdAD (s : State) : Host.Outcome State Fault Refusal := baseRow 0x7A#8 [] s

/-- LD A,E, `0x7B`: `Load8(Register(A), Register(E))` (R182). -/
def execLdAE (s : State) : Host.Outcome State Fault Refusal := baseRow 0x7B#8 [] s

/-- LD A,H, `0x7C`: `Load8(Register(A), Register(H))` (R182). -/
def execLdAH (s : State) : Host.Outcome State Fault Refusal := baseRow 0x7C#8 [] s

/-- LD A,L, `0x7D`: `Load8(Register(A), Register(L))` (R182). -/
def execLdAL (s : State) : Host.Outcome State Fault Refusal := baseRow 0x7D#8 [] s

end Sys2Proof.Machine
end

