-- ==== Sys2Proof/Machine/Load8.lean ====
section
/-! DEFINITION. The four sourced 8-bit loads (42_load8.md R140 to R144): their recipes stand in `sourcedTable`
(Sys2Proof/Machine/Tables.lean), the immediate is the byte the instruction holds. -/

namespace Sys2Proof.Machine

/-- LD B,d8: `0x06` consumes 2 and returns `Load8(Register(B), Immediate(i))` (R141). -/
def execLdBImm (i : Byte) (s : State) : Host.Outcome State Fault Refusal := baseRow 0x06#8 [i] s

/-- LD (HL),d8: `0x36` consumes 2 and returns `Load8(Indirect(HL), Immediate(i))` (R142). -/
def execLdIndImm (i : Byte) (s : State) : Host.Outcome State Fault Refusal := baseRow 0x36#8 [i] s

/-- LD A,(HL): `0x7E` consumes 1 and returns `Load8(Register(A), Indirect(HL))` (R143). -/
def execLdAInd (s : State) : Host.Outcome State Fault Refusal := baseRow 0x7E#8 [] s

/-- LD A,A: `0x7F` consumes 1 and returns `Load8(Register(A), Register(A))` (R144). -/
def execLdAA (s : State) : Host.Outcome State Fault Refusal := baseRow 0x7F#8 [] s

end Sys2Proof.Machine
end

