-- ==== Sys2Proof/Machine/PrefixCb.lean ====
section
/-! DEFINITION. The prefix byte `0xCB` and the secondary table (43_prefix_cb.md). -/

namespace Sys2Proof.Machine

/-- PREFIX_CB: `0xCB` with nothing following consumes 1 byte and fails with `TruncatedOperand((None, 0xCB), 1, 0)`
(R150, R152; D7). -/
def execPrefixCb (s : State) : Host.Outcome State Fault Refusal := danglingRow 0xCB#8 s

/-- UNKNOWN_CB: `0xCB b` consumes 2 bytes and fails with `UnknownPrefixedOpcode(0xCB, b)`, unless `PREFIX_TABLE_CB_EXT`
has a recipe for `b` (R151, R154). -/
def execUnknownCb (b : Byte) (s : State) : Host.Outcome State Fault Refusal := prefixedRow 0xCB#8 b s

end Sys2Proof.Machine
end

