-- ==== Sys2Proof/Machine/Unassigned.lean ====
section
/-! DEFINITION. First bytes that have no row of their own (44_unassigned_and_declared_families.md). -/

namespace Sys2Proof.Machine

/-- UNKNOWN_BASE: `b` consumes 1 byte and fails with `UnknownBaseOpcode(b)`, unless `BASE_TABLE_EXT` has a recipe for
`b` (R160, R65). -/
def execUnknownBase (b : Byte) (s : State) : Host.Outcome State Fault Refusal := baseRow b [] s

end Sys2Proof.Machine
end

