-- ==== Sys2Proof/Syntax.lean ====
section
/-! DEFINITION. The syntax of the decoded byte patterns: one constructor for each of the 74 rows of spec/opcode_table.json.
Names: `ld<destination><source>` with `Ind` for `Indirect(HL)` and `Imm` for an 8-bit immediate. The rows marked
EXT_LD8 have their Load8 effect only when that table extension is loaded (45_ext_ld8_profile.md R180). -/

namespace Sys2Proof

/-- An instruction of the opcode table: the row its bytes select, with the bytes the row leaves free. -/
inductive Instr where
  /-- `0x06 i`, row LD_B_d8: Load8(Register(B), Immediate(i)). -/
  | ldBImm (i : Byte)
  /-- `0x36 i`, row LD__HL__d8: Load8(Indirect(HL), Immediate(i)). -/
  | ldIndImm (i : Byte)
  /-- `0x7E`, row LD_A__HL: Load8(Register(A), Indirect(HL)). -/
  | ldAInd
  /-- `0x7F`, row LD_A_A: Load8(Register(A), Register(A)). -/
  | ldAA
  /-- `0xCB` with nothing following, row PREFIX_CB (43_prefix_cb.md R150, R152). -/
  | prefixCb
  /-- `0xCB b`, row UNKNOWN_CB: an entry of the secondary table (R151, R154). -/
  | unknownCb (b : Byte)
  /-- a first byte of no other row, row UNKNOWN_BASE (44_unassigned_and_declared_families.md R160). -/
  | unknownBase (b : Byte)
  /-- `0x0E i`, row LD_C_d8, profile EXT_LD8: Load8(Register(C), Immediate(i)). -/
  | ldCImm (i : Byte)
  /-- `0x16 i`, row LD_D_d8, profile EXT_LD8: Load8(Register(D), Immediate(i)). -/
  | ldDImm (i : Byte)
  /-- `0x1E i`, row LD_E_d8, profile EXT_LD8: Load8(Register(E), Immediate(i)). -/
  | ldEImm (i : Byte)
  /-- `0x26 i`, row LD_H_d8, profile EXT_LD8: Load8(Register(H), Immediate(i)). -/
  | ldHImm (i : Byte)
  /-- `0x2E i`, row LD_L_d8, profile EXT_LD8: Load8(Register(L), Immediate(i)). -/
  | ldLImm (i : Byte)
  /-- `0x3E i`, row LD_A_d8, profile EXT_LD8: Load8(Register(A), Immediate(i)). -/
  | ldAImm (i : Byte)
  /-- `0x40`, row LD_B_B, profile EXT_LD8: Load8(Register(B), Register(B)). -/
  | ldBB
  /-- `0x41`, row LD_B_C, profile EXT_LD8: Load8(Register(B), Register(C)). -/
  | ldBC
  /-- `0x42`, row LD_B_D, profile EXT_LD8: Load8(Register(B), Register(D)). -/
  | ldBD
  /-- `0x43`, row LD_B_E, profile EXT_LD8: Load8(Register(B), Register(E)). -/
  | ldBE
  /-- `0x44`, row LD_B_H, profile EXT_LD8: Load8(Register(B), Register(H)). -/
  | ldBH
  /-- `0x45`, row LD_B_L, profile EXT_LD8: Load8(Register(B), Register(L)). -/
  | ldBL
  /-- `0x46`, row LD_B__HL, profile EXT_LD8: Load8(Register(B), Indirect(HL)). -/
  | ldBInd
  /-- `0x47`, row LD_B_A, profile EXT_LD8: Load8(Register(B), Register(A)). -/
  | ldBA
  /-- `0x48`, row LD_C_B, profile EXT_LD8: Load8(Register(C), Register(B)). -/
  | ldCB
  /-- `0x49`, row LD_C_C, profile EXT_LD8: Load8(Register(C), Register(C)). -/
  | ldCC
  /-- `0x4A`, row LD_C_D, profile EXT_LD8: Load8(Register(C), Register(D)). -/
  | ldCD
  /-- `0x4B`, row LD_C_E, profile EXT_LD8: Load8(Register(C), Register(E)). -/
  | ldCE
  /-- `0x4C`, row LD_C_H, profile EXT_LD8: Load8(Register(C), Register(H)). -/
  | ldCH
  /-- `0x4D`, row LD_C_L, profile EXT_LD8: Load8(Register(C), Register(L)). -/
  | ldCL
  /-- `0x4E`, row LD_C__HL, profile EXT_LD8: Load8(Register(C), Indirect(HL)). -/
  | ldCInd
  /-- `0x4F`, row LD_C_A, profile EXT_LD8: Load8(Register(C), Register(A)). -/
  | ldCA
  /-- `0x50`, row LD_D_B, profile EXT_LD8: Load8(Register(D), Register(B)). -/
  | ldDB
  /-- `0x51`, row LD_D_C, profile EXT_LD8: Load8(Register(D), Register(C)). -/
  | ldDC
  /-- `0x52`, row LD_D_D, profile EXT_LD8: Load8(Register(D), Register(D)). -/
  | ldDD
  /-- `0x53`, row LD_D_E, profile EXT_LD8: Load8(Register(D), Register(E)). -/
  | ldDE
  /-- `0x54`, row LD_D_H, profile EXT_LD8: Load8(Register(D), Register(H)). -/
  | ldDH
  /-- `0x55`, row LD_D_L, profile EXT_LD8: Load8(Register(D), Register(L)). -/
  | ldDL
  /-- `0x56`, row LD_D__HL, profile EXT_LD8: Load8(Register(D), Indirect(HL)). -/
  | ldDInd
  /-- `0x57`, row LD_D_A, profile EXT_LD8: Load8(Register(D), Register(A)). -/
  | ldDA
  /-- `0x58`, row LD_E_B, profile EXT_LD8: Load8(Register(E), Register(B)). -/
  | ldEB
  /-- `0x59`, row LD_E_C, profile EXT_LD8: Load8(Register(E), Register(C)). -/
  | ldEC
  /-- `0x5A`, row LD_E_D, profile EXT_LD8: Load8(Register(E), Register(D)). -/
  | ldED
  /-- `0x5B`, row LD_E_E, profile EXT_LD8: Load8(Register(E), Register(E)). -/
  | ldEE
  /-- `0x5C`, row LD_E_H, profile EXT_LD8: Load8(Register(E), Register(H)). -/
  | ldEH
  /-- `0x5D`, row LD_E_L, profile EXT_LD8: Load8(Register(E), Register(L)). -/
  | ldEL
  /-- `0x5E`, row LD_E__HL, profile EXT_LD8: Load8(Register(E), Indirect(HL)). -/
  | ldEInd
  /-- `0x5F`, row LD_E_A, profile EXT_LD8: Load8(Register(E), Register(A)). -/
  | ldEA
  /-- `0x60`, row LD_H_B, profile EXT_LD8: Load8(Register(H), Register(B)). -/
  | ldHB
  /-- `0x61`, row LD_H_C, profile EXT_LD8: Load8(Register(H), Register(C)). -/
  | ldHC
  /-- `0x62`, row LD_H_D, profile EXT_LD8: Load8(Register(H), Register(D)). -/
  | ldHD
  /-- `0x63`, row LD_H_E, profile EXT_LD8: Load8(Register(H), Register(E)). -/
  | ldHE
  /-- `0x64`, row LD_H_H, profile EXT_LD8: Load8(Register(H), Register(H)). -/
  | ldHH
  /-- `0x65`, row LD_H_L, profile EXT_LD8: Load8(Register(H), Register(L)). -/
  | ldHL
  /-- `0x66`, row LD_H__HL, profile EXT_LD8: Load8(Register(H), Indirect(HL)). -/
  | ldHInd
  /-- `0x67`, row LD_H_A, profile EXT_LD8: Load8(Register(H), Register(A)). -/
  | ldHA
  /-- `0x68`, row LD_L_B, profile EXT_LD8: Load8(Register(L), Register(B)). -/
  | ldLB
  /-- `0x69`, row LD_L_C, profile EXT_LD8: Load8(Register(L), Register(C)). -/
  | ldLC
  /-- `0x6A`, row LD_L_D, profile EXT_LD8: Load8(Register(L), Register(D)). -/
  | ldLD
  /-- `0x6B`, row LD_L_E, profile EXT_LD8: Load8(Register(L), Register(E)). -/
  | ldLE
  /-- `0x6C`, row LD_L_H, profile EXT_LD8: Load8(Register(L), Register(H)). -/
  | ldLH
  /-- `0x6D`, row LD_L_L, profile EXT_LD8: Load8(Register(L), Register(L)). -/
  | ldLL
  /-- `0x6E`, row LD_L__HL, profile EXT_LD8: Load8(Register(L), Indirect(HL)). -/
  | ldLInd
  /-- `0x6F`, row LD_L_A, profile EXT_LD8: Load8(Register(L), Register(A)). -/
  | ldLA
  /-- `0x70`, row LD__HL__B, profile EXT_LD8: Load8(Indirect(HL), Register(B)). -/
  | ldIndB
  /-- `0x71`, row LD__HL__C, profile EXT_LD8: Load8(Indirect(HL), Register(C)). -/
  | ldIndC
  /-- `0x72`, row LD__HL__D, profile EXT_LD8: Load8(Indirect(HL), Register(D)). -/
  | ldIndD
  /-- `0x73`, row LD__HL__E, profile EXT_LD8: Load8(Indirect(HL), Register(E)). -/
  | ldIndE
  /-- `0x74`, row LD__HL__H, profile EXT_LD8: Load8(Indirect(HL), Register(H)). -/
  | ldIndH
  /-- `0x75`, row LD__HL__L, profile EXT_LD8: Load8(Indirect(HL), Register(L)). -/
  | ldIndL
  /-- `0x77`, row LD__HL__A, profile EXT_LD8: Load8(Indirect(HL), Register(A)). -/
  | ldIndA
  /-- `0x78`, row LD_A_B, profile EXT_LD8: Load8(Register(A), Register(B)). -/
  | ldAB
  /-- `0x79`, row LD_A_C, profile EXT_LD8: Load8(Register(A), Register(C)). -/
  | ldAC
  /-- `0x7A`, row LD_A_D, profile EXT_LD8: Load8(Register(A), Register(D)). -/
  | ldAD
  /-- `0x7B`, row LD_A_E, profile EXT_LD8: Load8(Register(A), Register(E)). -/
  | ldAE
  /-- `0x7C`, row LD_A_H, profile EXT_LD8: Load8(Register(A), Register(H)). -/
  | ldAH
  /-- `0x7D`, row LD_A_L, profile EXT_LD8: Load8(Register(A), Register(L)). -/
  | ldAL
  deriving DecidableEq, Repr

end Sys2Proof
end

