-- ==== Sys2Proof/Machine/Dispatch.lean ====
section
/-! DEFINITION. One arm for each row of the opcode table. -/

namespace Sys2Proof.Machine

def exec (i : Instr) (s : State) : Host.Outcome State Fault Refusal :=
  match i with
  | .ldBImm imm => Sys2Proof.Machine.execLdBImm imm s
  | .ldIndImm imm => Sys2Proof.Machine.execLdIndImm imm s
  | .ldAInd => Sys2Proof.Machine.execLdAInd s
  | .ldAA => Sys2Proof.Machine.execLdAA s
  | .prefixCb => Sys2Proof.Machine.execPrefixCb s
  | .unknownCb b => Sys2Proof.Machine.execUnknownCb b s
  | .unknownBase b => Sys2Proof.Machine.execUnknownBase b s
  | .ldCImm imm => Sys2Proof.Machine.execLdCImm imm s
  | .ldDImm imm => Sys2Proof.Machine.execLdDImm imm s
  | .ldEImm imm => Sys2Proof.Machine.execLdEImm imm s
  | .ldHImm imm => Sys2Proof.Machine.execLdHImm imm s
  | .ldLImm imm => Sys2Proof.Machine.execLdLImm imm s
  | .ldAImm imm => Sys2Proof.Machine.execLdAImm imm s
  | .ldBB => Sys2Proof.Machine.execLdBB s
  | .ldBC => Sys2Proof.Machine.execLdBC s
  | .ldBD => Sys2Proof.Machine.execLdBD s
  | .ldBE => Sys2Proof.Machine.execLdBE s
  | .ldBH => Sys2Proof.Machine.execLdBH s
  | .ldBL => Sys2Proof.Machine.execLdBL s
  | .ldBInd => Sys2Proof.Machine.execLdBInd s
  | .ldBA => Sys2Proof.Machine.execLdBA s
  | .ldCB => Sys2Proof.Machine.execLdCB s
  | .ldCC => Sys2Proof.Machine.execLdCC s
  | .ldCD => Sys2Proof.Machine.execLdCD s
  | .ldCE => Sys2Proof.Machine.execLdCE s
  | .ldCH => Sys2Proof.Machine.execLdCH s
  | .ldCL => Sys2Proof.Machine.execLdCL s
  | .ldCInd => Sys2Proof.Machine.execLdCInd s
  | .ldCA => Sys2Proof.Machine.execLdCA s
  | .ldDB => Sys2Proof.Machine.execLdDB s
  | .ldDC => Sys2Proof.Machine.execLdDC s
  | .ldDD => Sys2Proof.Machine.execLdDD s
  | .ldDE => Sys2Proof.Machine.execLdDE s
  | .ldDH => Sys2Proof.Machine.execLdDH s
  | .ldDL => Sys2Proof.Machine.execLdDL s
  | .ldDInd => Sys2Proof.Machine.execLdDInd s
  | .ldDA => Sys2Proof.Machine.execLdDA s
  | .ldEB => Sys2Proof.Machine.execLdEB s
  | .ldEC => Sys2Proof.Machine.execLdEC s
  | .ldED => Sys2Proof.Machine.execLdED s
  | .ldEE => Sys2Proof.Machine.execLdEE s
  | .ldEH => Sys2Proof.Machine.execLdEH s
  | .ldEL => Sys2Proof.Machine.execLdEL s
  | .ldEInd => Sys2Proof.Machine.execLdEInd s
  | .ldEA => Sys2Proof.Machine.execLdEA s
  | .ldHB => Sys2Proof.Machine.execLdHB s
  | .ldHC => Sys2Proof.Machine.execLdHC s
  | .ldHD => Sys2Proof.Machine.execLdHD s
  | .ldHE => Sys2Proof.Machine.execLdHE s
  | .ldHH => Sys2Proof.Machine.execLdHH s
  | .ldHL => Sys2Proof.Machine.execLdHL s
  | .ldHInd => Sys2Proof.Machine.execLdHInd s
  | .ldHA => Sys2Proof.Machine.execLdHA s
  | .ldLB => Sys2Proof.Machine.execLdLB s
  | .ldLC => Sys2Proof.Machine.execLdLC s
  | .ldLD => Sys2Proof.Machine.execLdLD s
  | .ldLE => Sys2Proof.Machine.execLdLE s
  | .ldLH => Sys2Proof.Machine.execLdLH s
  | .ldLL => Sys2Proof.Machine.execLdLL s
  | .ldLInd => Sys2Proof.Machine.execLdLInd s
  | .ldLA => Sys2Proof.Machine.execLdLA s
  | .ldIndB => Sys2Proof.Machine.execLdIndB s
  | .ldIndC => Sys2Proof.Machine.execLdIndC s
  | .ldIndD => Sys2Proof.Machine.execLdIndD s
  | .ldIndE => Sys2Proof.Machine.execLdIndE s
  | .ldIndH => Sys2Proof.Machine.execLdIndH s
  | .ldIndL => Sys2Proof.Machine.execLdIndL s
  | .ldIndA => Sys2Proof.Machine.execLdIndA s
  | .ldAB => Sys2Proof.Machine.execLdAB s
  | .ldAC => Sys2Proof.Machine.execLdAC s
  | .ldAD => Sys2Proof.Machine.execLdAD s
  | .ldAE => Sys2Proof.Machine.execLdAE s
  | .ldAH => Sys2Proof.Machine.execLdAH s
  | .ldAL => Sys2Proof.Machine.execLdAL s

end Sys2Proof.Machine
end

