-- ==== Sys2Proof/WellFormed.lean ====
section
/-! DEFINITION. When an instruction of the opcode table is well formed. The operand types leave one check: the
catch-all row UNKNOWN_BASE stands only for a first byte that no other row of the tables `base` and `dispatcher`
matches (30_encoding.md R60, opcode_table.json's "priority"). -/

namespace Sys2Proof

/-- A first byte that has a row of its own, by the patterns of 45_ext_ld8_profile.md R182 (`01 ddd sss` but `0x76`) and
R183 (`00 ddd 110`), which hold the four sourced opcodes, or the prefix (R60). -/
def hasOwnRow (b : Byte) : Bool :=
  prefixSet.contains b || (b &&& 0xC0#8 == 0x40#8 && b != 0x76#8) || (b &&& 0xC7#8 == 0x06#8)

/-- Every field of the instruction is within its row. -/
def Instr.wellFormed : Instr → Bool
  | .unknownBase b => !hasOwnRow b
  | _ => true

end Sys2Proof
end

