-- ==== Sys2Proof/Decode.lean ====
section
/-! DEFINITION. Decoding bytes to a row of the opcode table (30_encoding.md R50 to R62; opcode_table.json), the encoder
written from the same rows, and the host's numbering of a row's bits. Which row the bytes select depends on the bytes
alone; what the row's transaction returns under the loaded tables is its meaning (Sys2Proof/Machine). -/

namespace Sys2Proof

/-- Why no row is read from a byte sequence. -/
inductive Reject where
  /-- there is no byte (60_exceptions.md R191) -/
  | exhausted
  /-- the opcode byte `f` of a row with an 8-bit immediate is the last byte (R194) -/
  | immediateMissing (f : Byte)
  deriving DecidableEq, Repr

/-- The rows of format `OP_I8` (R53): first byte and constructor over the immediate. -/
def immRows : List (Byte × (Byte → Instr)) :=
  [(0x06#8, .ldBImm), (0x0E#8, .ldCImm), (0x16#8, .ldDImm), (0x1E#8, .ldEImm)]
  ++ [(0x26#8, .ldHImm), (0x2E#8, .ldLImm), (0x36#8, .ldIndImm), (0x3E#8, .ldAImm)]

/-- One row of format `OP` for each instruction of the list, at consecutive first bytes from `first` on (R53). -/
def rowsFrom (first : Byte) : List Instr → List (Byte × Instr)
  | [] => []
  | i :: is => (first, i) :: rowsFrom (first + 1#8) is

/-- The rows of format `OP` (R53) but the catch-all, one line a destination; `0x76` has no row. -/
def plainRows : List (Byte × Instr) :=
  rowsFrom 0x40#8 [.ldBB, .ldBC, .ldBD, .ldBE, .ldBH, .ldBL, .ldBInd, .ldBA]
  ++ rowsFrom 0x48#8 [.ldCB, .ldCC, .ldCD, .ldCE, .ldCH, .ldCL, .ldCInd, .ldCA]
  ++ rowsFrom 0x50#8 [.ldDB, .ldDC, .ldDD, .ldDE, .ldDH, .ldDL, .ldDInd, .ldDA]
  ++ rowsFrom 0x58#8 [.ldEB, .ldEC, .ldED, .ldEE, .ldEH, .ldEL, .ldEInd, .ldEA]
  ++ rowsFrom 0x60#8 [.ldHB, .ldHC, .ldHD, .ldHE, .ldHH, .ldHL, .ldHInd, .ldHA]
  ++ rowsFrom 0x68#8 [.ldLB, .ldLC, .ldLD, .ldLE, .ldLH, .ldLL, .ldLInd, .ldLA]
  ++ rowsFrom 0x70#8 [.ldIndB, .ldIndC, .ldIndD, .ldIndE, .ldIndH, .ldIndL]
  ++ rowsFrom 0x77#8 [.ldIndA]
  ++ rowsFrom 0x78#8 [.ldAB, .ldAC, .ldAD, .ldAE, .ldAH, .ldAL, .ldAInd, .ldAA]

/-- A base row: a first byte outside `PREFIX_SET` and what follows it. -/
def decodeBase (f : Byte) (rest : List Byte) : Except Reject (Instr × List Byte) :=
  match plainRows.lookup f, immRows.lookup f, rest with
  | some i, _, _ => .ok (i, rest)
  | none, some mk, v :: rest' => .ok (mk v, rest')
  | none, some _, [] => .error (.immediateMissing f)
  | none, none, _ => .ok (.unknownBase f, rest)

/-- The row at the start of a byte sequence, with the bytes after it. A prefix is recognised as the first byte only
(R55, R153); with a byte after it the pair is a row of the secondary table (R61), without one it is the row PREFIX_CB. -/
def decode : List Byte → Except Reject (Instr × List Byte)
  | [] => .error .exhausted
  | f :: rest =>
    if prefixSet.contains f then
      match rest with
      | [] => .ok (.prefixCb, [])
      | b :: rest' => .ok (.unknownCb b, rest')
    else decodeBase f rest

/-- The bytes of an instruction, in stream order (R50, the "encoding" of its row in opcode_table.json). -/
def encode : Instr → List Byte
  | .prefixCb => [0xCB#8]
  | .unknownCb b => [0xCB#8, b]
  | .unknownBase b => [b]
  | .ldBImm i => [0x06#8, i]
  | .ldCImm i => [0x0E#8, i]
  | .ldDImm i => [0x16#8, i]
  | .ldEImm i => [0x1E#8, i]
  | .ldHImm i => [0x26#8, i]
  | .ldLImm i => [0x2E#8, i]
  | .ldIndImm i => [0x36#8, i]
  | .ldAImm i => [0x3E#8, i]
  | .ldBB => [0x40#8]
  | .ldBC => [0x41#8]
  | .ldBD => [0x42#8]
  | .ldBE => [0x43#8]
  | .ldBH => [0x44#8]
  | .ldBL => [0x45#8]
  | .ldBInd => [0x46#8]
  | .ldBA => [0x47#8]
  | .ldCB => [0x48#8]
  | .ldCC => [0x49#8]
  | .ldCD => [0x4A#8]
  | .ldCE => [0x4B#8]
  | .ldCH => [0x4C#8]
  | .ldCL => [0x4D#8]
  | .ldCInd => [0x4E#8]
  | .ldCA => [0x4F#8]
  | .ldDB => [0x50#8]
  | .ldDC => [0x51#8]
  | .ldDD => [0x52#8]
  | .ldDE => [0x53#8]
  | .ldDH => [0x54#8]
  | .ldDL => [0x55#8]
  | .ldDInd => [0x56#8]
  | .ldDA => [0x57#8]
  | .ldEB => [0x58#8]
  | .ldEC => [0x59#8]
  | .ldED => [0x5A#8]
  | .ldEE => [0x5B#8]
  | .ldEH => [0x5C#8]
  | .ldEL => [0x5D#8]
  | .ldEInd => [0x5E#8]
  | .ldEA => [0x5F#8]
  | .ldHB => [0x60#8]
  | .ldHC => [0x61#8]
  | .ldHD => [0x62#8]
  | .ldHE => [0x63#8]
  | .ldHH => [0x64#8]
  | .ldHL => [0x65#8]
  | .ldHInd => [0x66#8]
  | .ldHA => [0x67#8]
  | .ldLB => [0x68#8]
  | .ldLC => [0x69#8]
  | .ldLD => [0x6A#8]
  | .ldLE => [0x6B#8]
  | .ldLH => [0x6C#8]
  | .ldLL => [0x6D#8]
  | .ldLInd => [0x6E#8]
  | .ldLA => [0x6F#8]
  | .ldIndB => [0x70#8]
  | .ldIndC => [0x71#8]
  | .ldIndD => [0x72#8]
  | .ldIndE => [0x73#8]
  | .ldIndH => [0x74#8]
  | .ldIndL => [0x75#8]
  | .ldIndA => [0x77#8]
  | .ldAB => [0x78#8]
  | .ldAC => [0x79#8]
  | .ldAD => [0x7A#8]
  | .ldAE => [0x7B#8]
  | .ldAH => [0x7C#8]
  | .ldAL => [0x7D#8]
  | .ldAInd => [0x7E#8]
  | .ldAA => [0x7F#8]

/-- The `n` bytes of the number `w` with the first byte in the most significant position, as opcode_table.json's
`match` and `mask` and its `fixed` fields number a row (R60). -/
def wordBytes : Nat → Nat → List Byte
  | 0, _ => []
  | n + 1, w => BitVec.ofNat 8 (w / 256 ^ n) :: wordBytes n w

/-- The bytes of an instruction whose first `nbits` bits are `w`, every later bit 0 (a missing immediate is a zero
byte). -/
def tableWordBytes (nbits w : Nat) : List Byte :=
  let bs := wordBytes (nbits / 8) w
  match decode bs with
  | .error _ => bs ++ [0x00#8]
  | .ok _ => bs

/-- The instruction the decoder reads from an instruction whose bits are `w`, numbered as opcode_table.json numbers
them (log 15). -/
def decodeTableWord (nbits w : Nat) : Option Instr :=
  match decode (tableWordBytes nbits w) with
  | .ok (i, _) => some i
  | .error _ => none

end Sys2Proof
end

