-- ==== Sys2Proof/Machine/Launch.lean ====
section
/-! DEFINITION. What stands around the rows in a step: the launch premises of a session (93_implementation_defined.md U1,
U18; 30_encoding.md R65), checked before it runs, and the transactions that end before a row is complete. -/

namespace Sys2Proof.Machine

/-- Why a configuration is refused before it runs: a malformed extension (R65), a two-byte recipe while `IMM16_ORDER`
is unset (R64, U1), an image the cursor register cannot index (R12, U18). -/
def launchRefusal (s : State) : Option Refusal :=
  if !(keysRise s.params.baseExt && keysRise s.params.cbExt && avoidsSourced s.params.baseExt) then
    some .extensionMalformed
  else if needsOrder s.params && s.params.imm16Order.isNone then some .imm16OrderUnset
  else
    match s.params.posBits with
    | some w => if 2 ^ w ≤ Memory.len s.img then some .imageTooLong else none
    | none => none

/-- A state of the machine: the image in its canonical form and the cursor in `0 .. LEN` (R12, R39). -/
abbrev inImage (s : State) : Prop := Memory.wf s.img ∧ s.pos ≤ Memory.len s.img

/-- A transaction under the launch premises. -/
def launch (s : State) (run : Host.Outcome State Fault Refusal) : Host.Outcome State Fault Refusal :=
  if inImage s then
    match launchRefusal s with
    | some r => .refused r
    | none => run
  else .fault .cursorOutsideImage

/-- A transaction whose bytes are no complete row: at the end of the image `StreamExhausted` with nothing consumed
(60_exceptions.md R191); an opcode whose immediate is missing runs as its first byte, so that the tables decide between
`TruncatedOperand` and `UnknownBaseOpcode` (R197). -/
def incomplete (r : Reject) (s : State) : Host.Outcome State Fault Refusal :=
  match r with
  | .exhausted => .next (raiseFailure 0 .streamExhausted s)
  | .immediateMissing f => baseRow f [] s

end Sys2Proof.Machine
end

