-- ==== Sys2Proof/Machine/Step.lean ====
section
/-! DEFINITION. One step is one decode transaction (41_decode_transaction.md R110). -/

namespace Sys2Proof.Machine

/-- One decode transaction: under the launch premises, the row that the bytes at the cursor select, or the failure of
bytes that are no complete row. -/
def step (s : State) : Host.Outcome State Fault Refusal :=
  launch s <|
    match decode s.ahead with
    | .ok (i, _) => exec i s
    | .error r => incomplete r s

/-- `s` with the instruction of the row word placed at its cursor as the last bytes of the image (log 16). -/
def State.withFetchWord (s : State) (nbits w : Nat) : State :=
  { s with img := Memory.placeAt s.img s.pos (tableWordBytes nbits w) }

end Sys2Proof.Machine
end

