-- ==== Sys2Proof/Machine/Algorithm.lean ====
section
/-! DEFINITION. The normative algorithm `DecodeOne()` of 41_decode_transaction.md R111 as it is written there, over
`Peek()` and `Next()`. `step` runs a transaction row by row of the opcode table; that the two agree is an obligation.
`streamOps` counts the stream operations of the same algorithm (R120). -/

namespace Sys2Proof.Machine

/-- How the loop of `Construct` ends: with every byte pulled, or exhausted after `available` of them. -/
inductive Pulled where
  | all (imm : List Byte) (s : State)
  | short (available : Nat) (s : State)
  deriving DecidableEq, Repr

/-- The loop of `Construct`: `n` calls of `Next()`, ended by the first `Exhausted` (R111). -/
def pull : Nat → State → Pulled
  | 0, s => .all [] s
  | n + 1, s =>
    match next s with
    | (.exhausted, s') => .short 0 s'
    | (.byte v, s') =>
      match pull n s' with
      | .all imm s'' => .all (v :: imm) s''
      | .short k s'' => .short (k + 1) s''

/-- The outputs at the end of a transaction that began at `p0`: `consumed` is the difference of the cursors (R121,
R127). -/
def finish (p0 : Nat) (o : DecodeOutcome) (s : State) : State :=
  { s with ports := some { outcome := o, consumed := s.pos - p0 } }

/-- `Construct(op, n, bld)` (R111). -/
def constructOne (p0 : Nat) (op : OpId) (r : Recipe) (s : State) : Host.Outcome State Fault Refusal :=
  match pull (immBytes r) s with
  | .short k s' => .next (finish p0 (.fail (.truncatedOperand op (immBytes r) k)) s')
  | .all imm s' =>
    match buildInstr s.params.imm16Order r imm with
    | some i => .next (finish p0 (.ok i) s')
    | none => .refused .imm16OrderUnset

/-- `DecodeOne()` (R111). -/
def decodeOne (s : State) : Host.Outcome State Fault Refusal :=
  match peek s with
  | .exhausted => .next (finish s.pos (.fail .streamExhausted) s)
  | .byte f =>
    if prefixSet.contains f then
      match next (next s).2 with
      | (.exhausted, s2) => .next (finish s.pos (.fail (.truncatedOperand { pfx := none, opcode := f } 1 0)) s2)
      | (.byte b, s2) =>
        match prefixEntry s.params f b with
        | none => .next (finish s.pos (.fail (.unknownPrefixedOpcode f b)) s2)
        | some r => constructOne s.pos { pfx := some f, opcode := b } r s2
    else
      match baseEntry s.params f with
      | none => .next (finish s.pos (.fail (.unknownBaseOpcode f)) (next s).2)
      | some r => constructOne s.pos { pfx := none, opcode := f } r (next s).2

/-- The calls of `Next()` the loop of `Construct` makes, the one that finds the stream exhausted included. -/
def pullOps (n : Nat) (s : State) : Nat :=
  match pull n s with
  | .all _ _ => n
  | .short k _ => k + 1

/-- The stream operations of a transaction: one `Peek()` and its calls of `Next()` (R120). -/
def streamOps (s : State) : Nat :=
  match peek s with
  | .exhausted => 1
  | .byte f =>
    if prefixSet.contains f then
      match next (next s).2 with
      | (.exhausted, _) => 3
      | (.byte b, s2) =>
        match prefixEntry s.params f b with
        | none => 3
        | some r => 3 + pullOps (immBytes r) s2
    else
      match baseEntry s.params f with
      | none => 2
      | some r => 2 + pullOps (immBytes r) (next s).2

end Sys2Proof.Machine
end

