-- ==== Sys2Proof/Machine/Flags.lean ====
section
/-! DEFINITION. Flag effects, which are data the decoder hands over and never resolves (40_instruction_model.md R92,
R93, R96): the block holds and reads no flag (10_state.md R16), so there is no flag computation. -/

namespace Sys2Proof.Machine

/-- The effect a record states for a flag (R93). -/
def effectOn (e : FlagEffects) : FlagName → FlagEffect
  | .zero => e.zero
  | .subtract => e.subtract
  | .halfCarry => e.halfCarry
  | .carry => e.carry

/-- The record in which no flag is relevant: "a flag that is not relevant to an operation is `Unchanged`" (R93, D15). -/
def flagsUntouched : FlagEffects :=
  { zero := .unchanged, subtract := .unchanged, halfCarry := .unchanged, carry := .unchanged }

/-- The `FlagEffects` record an Instruction carries: the arithmetic, increment/decrement and shift/rotate cases carry
one, `Nop`, `Load8`, `Load16`, `Push` and `Pop` none (R82, R95, C6). -/
def flagEffects {β ω : Type} : InstructionOf β ω → Option FlagEffects
  | .nop => none
  | .load8 _ _ => none
  | .load16 _ _ => none
  | .push _ => none
  | .pop _ => none
  | .add8 _ _ fl => some fl
  | .sub8 _ _ fl => some fl
  | .and8 _ _ fl => some fl
  | .or8 _ _ fl => some fl
  | .xor8 _ _ fl => some fl
  | .compare8 _ _ fl => some fl
  | .add16 _ _ fl => some fl
  | .inc8 _ fl => some fl
  | .dec8 _ fl => some fl
  | .inc16 _ fl => some fl
  | .dec16 _ fl => some fl
  | .shiftRotate _ _ fl => some fl

end Sys2Proof.Machine
end

