-- ==== Sys2Proof/Machine/Ports.lean ====
section
/-! DEFINITION. The signals of the block's interface to its caller, read off the ports (41_decode_transaction.md R121;
60_exceptions.md R195, R196). The packing of `instr` is not specified (N3): it stays a structured value. -/

namespace Sys2Proof.Machine

/-- `ok`: 1 when the outcome is `Ok` (R121). -/
def Ports.okBit (p : Ports) : Bool :=
  match p.outcome with
  | .ok _ => true
  | .fail _ => false

/-- `instr`: the Instruction value, absent when `ok = 0` (R121, D26). -/
def Ports.instrOut (p : Ports) : Option Instruction :=
  match p.outcome with
  | .ok i => some i
  | .fail _ => none

/-- `err_info`: the failure with its recorded fields (R196), absent when `ok = 1`. -/
def Ports.errInfo (p : Ports) : Option Failure :=
  match p.outcome with
  | .ok _ => none
  | .fail f => some f

/-- The 2-bit codes of the failure kinds (R195, D10). -/
def Failure.code : Failure → BitVec 2
  | .streamExhausted => 0#2
  | .unknownBaseOpcode _ => 1#2
  | .unknownPrefixedOpcode _ _ => 2#2
  | .truncatedOperand _ _ _ => 3#2

/-- `err_kind`: valid when `ok = 0` (R121, R195). -/
def Ports.errKind (p : Ports) : Option (BitVec 2) := p.errInfo.map Failure.code

end Sys2Proof.Machine
end

