-- ==== Sys2Proof/Safety.lean ====
section
/-! DEFINITION. What a sound session is, when a run is over and what a clean walk is, in the terms the claims use. -/

namespace Sys2Proof.Machine

/-- The invariant of a session: the image in its canonical form, the cursor in `0 .. LEN` (10_state.md R12), and a
configuration the model accepts (30_encoding.md R64, R65; U18). -/
abbrev State.Inv (s : State) : Prop :=
  Memory.wf s.img ∧ s.pos ≤ Memory.len s.img ∧ launchRefusal s = none

/-- The last transaction returned `StreamExhausted`: "a run of the block over an image is over" (70_reset_and_hazards.md
R233). -/
abbrev State.runOver (s : State) : Prop := s.ports.map Ports.outcome = some (.fail .streamExhausted)

/-- The ports of a walk: transactions repeated, at most `k` of them, up to and without the first `StreamExhausted`
(R124). -/
def walk : Nat → State → List Ports
  | 0, _ => []
  | k + 1, s =>
    match step s with
    | .next s' =>
      match s'.ports with
      | some p => if p.outcome = .fail .streamExhausted then [] else p :: walk k s'
      | none => []
    | _ => []

/-- The whole walk: it ends after at most `LEN + 1` transactions (R124). -/
def walkAll (s : State) : List Ports := walk (Memory.len s.img + 1) s

/-- A clean walk: every transaction before the end returned an Instruction (R233: "a claim that a walk is clean must ask
for that separately"). -/
def cleanWalk (s : State) : Bool := (walkAll s).all fun p => p.okBit

/-- The state after a transaction from `s` that consumed `n` bytes and returned `o`, written out: the cursor `n` further,
the outcome and the count on the ports, nothing else changed (R116, R117, R121). -/
abbrev after (s : State) (n : Nat) (o : DecodeOutcome) : State :=
  { s with pos := s.pos + n, ports := some { outcome := o, consumed := n } }

end Sys2Proof.Machine
end

