-- ==== Sys2Proof/Certificates/Slice0/Obligations.lean ====
section
/-! DEFINITION. The statements for the provers. Each docstring names the rules of spec/ it formalises; where a clause rests
on a decision the spec marks as its own or on a choice of the model, the docstring says so. -/

open Sys2Proof Sys2Proof.Machine

/-- A new session delivers its image from index 0.
Follows R220, R221 ("The entry point is image index 0"), R5 and R39. That the ports hold no outcome
yet is the model's own choice of a field (log 2). -/
def Obligations.SessionStartsAtIndexZero : Prop :=
  ∀ (p : Params) (bytes : List Byte),
    (State.session p bytes).pos = 0 ∧ (State.session p bytes).params = p ∧ (State.session p bytes).ports = none ∧
    (∀ k, Memory.read (State.session p bytes).img k = bytes[k]?) ∧ (State.session p bytes).ahead = bytes

/-- Reset is a session of the reference configuration over the empty image (empty image: log 4).
The empty image at reset is the model's choice (log 4); the ports field is the model's (log 2); the rest are the values
of R5 and R22, and R223 for the first transaction. -/
def Obligations.ResetIsTheReferenceSession : Prop :=
  State.reset = State.session Params.reference [] ∧ State.reset.pos = 0 ∧ State.reset.ports = none ∧
    State.reset.params = { baseExt := [], cbExt := [], imm16Order := none, posBits := none } ∧
    step State.reset =
      .next (after State.reset 0 (.fail .streamExhausted))

/-- The invariant holds at reset and at every session whose configuration is accepted.
The invariant `State.Inv` (Sys2Proof/Safety.lean): R12, R39, R64, R65; log 14. -/
def Obligations.NewSessionMeetsInvariant : Prop :=
  State.reset.Inv ∧
    ∀ (p : Params) (bytes : List Byte), launchRefusal (State.session p bytes) = none → (State.session p bytes).Inv

/-- From every state of the invariant a step answers a next state that meets it again.
R125, which the spec marks as derived: "`DecodeOne()` ends with exactly one outcome and a cursor in `p0 .. LEN`". -/
def Obligations.StepCompletesAndKeepsInvariant : Prop :=
  ∀ s : State, s.Inv →
    ∃ t, step s = .next t ∧ t.Inv ∧ s.pos ≤ t.pos ∧ t.img = s.img ∧ t.params = s.params ∧ t.ports.isSome

/-- The row-by-row step is the algorithm DecodeOne for every image and every table.
R111, with the failure kind of D7 (log 7) for a dangling prefix. -/
def Obligations.StepAgreesWithDecodeOne : Prop :=
  ∀ s : State, s.Inv → step s = decodeOne s

/-- When the bytes at the cursor decode, the step is exec of the decoded instruction.
R110, R112: a transaction decodes the bytes at the cursor. That those bytes select a row of opcode_table.json, a row of EXT_LD8
(R182, R183, general knowledge of the spec, log 20) included, whatever tables are loaded, and that the step is exec of that
row, is the model's choice (log 6). -/
def Obligations.StepRunsDecodedInstruction : Prop :=
  ∀ (s : State) (i : Instr) (rest : List Byte), s.Inv → decode s.ahead = .ok (i, rest) →
    i.wellFormed = true ∧ encode i ++ rest = s.ahead ∧ step s = exec i s

/-- When the step stops instead of running, and why.
R64 and U1, R12 and U18, R65 (a) (decisions D3, D5, D9 of the spec); the names of the stops and the fault are the model's (log 8, 11, 12, 14). -/
def Obligations.LaunchPremisesAreChecked : Prop :=
  (∀ s : State, ¬ inImage s → step s = .fault .cursorOutsideImage) ∧
  (∀ s : State, inImage s →
    (keysRise s.params.baseExt && keysRise s.params.cbExt && avoidsSourced s.params.baseExt) = false →
    step s = .refused .extensionMalformed) ∧
  (∀ s : State, inImage s →
    (keysRise s.params.baseExt && keysRise s.params.cbExt && avoidsSourced s.params.baseExt) = true →
    needsOrder s.params = true → s.params.imm16Order = none → step s = .refused .imm16OrderUnset) ∧
  (∀ (s : State) (w : Nat), inImage s →
    (keysRise s.params.baseExt && keysRise s.params.cbExt && avoidsSourced s.params.baseExt) = true →
    (needsOrder s.params && s.params.imm16Order.isNone) = false →
    s.params.posBits = some w → 2 ^ w ≤ Memory.len s.img → step s = .refused .imageTooLong)

/-- Peek returns the byte at the cursor below LEN and Exhausted otherwise.
R32. -/
def Obligations.PeekReturnsNextByteOrExhausted : Prop :=
  ∀ s : State, s.Inv →
    (s.pos < Memory.len s.img → ∃ b, Memory.read s.img s.pos = some b ∧ peek s = .byte b) ∧
    (¬ s.pos < Memory.len s.img → peek s = .exhausted)

/-- Next returns the byte at the cursor and moves one further, or changes nothing at the end.
R33, whose exhausted case is the decision D23. -/
def Obligations.NextConsumesExactlyOneByte : Prop :=
  ∀ s : State, s.Inv →
    (s.pos < Memory.len s.img →
      ∃ b, Memory.read s.img s.pos = some b ∧ next s = (.byte b, { s with pos := s.pos + 1 })) ∧
    (¬ s.pos < Memory.len s.img → next s = (.exhausted, s))

/-- Peek and then Next give the same result, and Next after a byte leaves the rest of the stream.
R34 and R35; the spec marks R34 as derived. -/
def Obligations.PeekThenNextAgree : Prop :=
  ∀ s : State, s.Inv → (next s).1 = peek s ∧
    ∀ b, peek s = .byte b → s.ahead = b :: (next s).2.ahead

/-- A Next of the caller between transactions keeps the session sound.
R228, D21 (log 18). -/
def Obligations.CallerNextKeepsInvariant : Prop :=
  ∀ s : State, s.Inv → (callerNext s).Inv ∧ (callerNext s).img = s.img ∧ (callerNext s).params = s.params ∧
    (callerNext s).ports = s.ports ∧
    (callerNext s).pos = (if s.pos < Memory.len s.img then s.pos + 1 else s.pos)

/-- StreamExhausted is returned exactly when the cursor is at LEN, and consumes nothing.
R191. -/
def Obligations.StreamExhaustedExactlyAtTheEnd : Prop :=
  ∀ s : State, s.Inv →
    ((∃ t, step s = .next t ∧ t.ports.map Ports.outcome = some (.fail .streamExhausted)) ↔
      s.pos = Memory.len s.img) ∧
    (s.pos = Memory.len s.img →
      step s = .next (after s 0 (.fail .streamExhausted)))

/-- After StreamExhausted every later transaction returns StreamExhausted and moves nothing.
R201: "After `StreamExhausted` every later transaction of the session returns `StreamExhausted` again"; R46, marked derived. -/
def Obligations.ExhaustionPersists : Prop :=
  ∀ (s : State) (k : Nat), s.Inv → s.pos = Memory.len s.img →
    Host.Core.run Sys2Proof.core (k + 1) s =
      .next (after s 0 (.fail .streamExhausted))

/-- A first byte that is no prefix and has no recipe: one byte consumed, UnknownBaseOpcode.
R160. -/
def Obligations.UnknownBaseByteConsumesOneByte : Prop :=
  ∀ (s : State) (b : Byte), s.Inv → Memory.read s.img s.pos = some b → b ∉ prefixSet →
    baseEntry s.params b = none →
    step s = .next (after s 1 (.fail (.unknownBaseOpcode b)))

/-- A prefix and a byte with no recipe in its table: two bytes consumed, UnknownPrefixedOpcode.
R193. -/
def Obligations.UnknownPrefixedByteConsumesTwoBytes : Prop :=
  (∀ (s : State) (p b : Byte), s.Inv → Memory.read s.img s.pos = some p → p ∈ prefixSet →
    Memory.read s.img (s.pos + 1) = some b → prefixEntry s.params p b = none →
    step s = .next (after s 2 (.fail (.unknownPrefixedOpcode p b)))) ∧
  (∀ b : Byte, prefixEntry Params.reference 0xCB#8 b = none)

/-- A prefix as the last byte: consumed, TruncatedOperand((None, 0xCB), 1, 0) (decision D7).
R152; the kind is D7 (log 7). -/
def Obligations.DanglingPrefixIsTruncated : Prop :=
  ∀ s : State, s.Inv → Memory.read s.img s.pos = some 0xCB#8 → s.pos + 1 = Memory.len s.img →
    step s = .next (after s 1 (.fail (.truncatedOperand { pfx := none, opcode := 0xCB#8 } 1 0)))

/-- 0x06: Load8(Register(B), Immediate(i)), or TruncatedOperand at the end of the image.
R141. -/
def Obligations.LoadBImmediate : Prop :=
  ∀ s : State, s.Inv → Memory.read s.img s.pos = some 0x06#8 →
    (∀ i, Memory.read s.img (s.pos + 1) = some i →
      step s = .next (after s 2 (.ok (.load8 (.register .B) (.immediate i))))) ∧
    (s.pos + 1 = Memory.len s.img →
      step s = .next (after s 1 (.fail (.truncatedOperand { pfx := none, opcode := 0x06#8 } 1 0))))

/-- 0x36: Load8(Indirect(HL), Immediate(i)), or TruncatedOperand at the end of the image.
R142. -/
def Obligations.LoadIndirectImmediate : Prop :=
  ∀ s : State, s.Inv → Memory.read s.img s.pos = some 0x36#8 →
    (∀ i, Memory.read s.img (s.pos + 1) = some i →
      step s = .next (after s 2 (.ok (.load8 (.indirect .HL) (.immediate i))))) ∧
    (s.pos + 1 = Memory.len s.img →
      step s = .next (after s 1 (.fail (.truncatedOperand { pfx := none, opcode := 0x36#8 } 1 0))))

/-- 0x7E: Load8(Register(A), Indirect(HL)), one byte, no failure.
R143. -/
def Obligations.LoadAFromIndirect : Prop :=
  ∀ s : State, s.Inv → Memory.read s.img s.pos = some 0x7E#8 →
    step s = .next (after s 1 (.ok (.load8 (.register .A) (.indirect .HL))))

/-- 0x7F: Load8(Register(A), Register(A)), one byte, no failure.
R144. -/
def Obligations.LoadAFromA : Prop :=
  ∀ s : State, s.Inv → Memory.read s.img s.pos = some 0x7F#8 →
    step s = .next (after s 1 (.ok (.load8 (.register .A) (.register .A))))

/-- A returned Instruction is build of exactly the bytes consumed after the opcode.
R116. -/
def Obligations.SuccessConsumesItsLength : Prop :=
  ∀ (s t : State) (i : Instruction) (c : Nat), s.Inv → step s = .next t →
    t.ports = some { outcome := .ok i, consumed := c } →
    t.pos = s.pos + c ∧ t.pos ≤ Memory.len s.img ∧
    ((∃ f r, Memory.read s.img s.pos = some f ∧ f ∉ prefixSet ∧ baseEntry s.params f = some r ∧
        c = 1 + immBytes r ∧
        buildInstr s.params.imm16Order r ((s.ahead.drop 1).take (immBytes r)) = some i) ∨
     (∃ p b r, Memory.read s.img s.pos = some p ∧ p ∈ prefixSet ∧ Memory.read s.img (s.pos + 1) = some b ∧
        prefixEntry s.params p b = some r ∧ c = 2 + immBytes r ∧
        buildInstr s.params.imm16Order r ((s.ahead.drop 2).take (immBytes r)) = some i))

/-- Too few bytes for a base recipe: all of them consumed, TruncatedOperand with their number.
R114, R115, R194 (the pair in the opcode field is the decision D22, the two-byte case is marked derived). -/
def Obligations.TruncationConsumesWhatIsThere : Prop :=
  ∀ (s : State) (f : Byte) (r : Recipe), s.Inv → Memory.read s.img s.pos = some f → f ∉ prefixSet →
    baseEntry s.params f = some r →
    (immBytes r ≤ Memory.len s.img - (s.pos + 1) →
      ∃ i, buildInstr s.params.imm16Order r ((s.ahead.drop 1).take (immBytes r)) = some i ∧
        step s = .next (after s (1 + immBytes r) (.ok i))) ∧
    (Memory.len s.img - (s.pos + 1) < immBytes r →
      step s = .next (after s (Memory.len s.img - s.pos)
        (.fail (.truncatedOperand { pfx := none, opcode := f } (immBytes r) (Memory.len s.img - (s.pos + 1))))))

/-- A recipe of PREFIX_TABLE_CB_EXT is decoded by the same Construct step.
R154. -/
def Obligations.PrefixedRecipeIsConstructed : Prop :=
  (∀ (s : State) (b : Byte) (r : Recipe), s.Inv → Memory.read s.img s.pos = some 0xCB#8 →
    Memory.read s.img (s.pos + 1) = some b → s.params.cbExt.lookup b = some r →
    (immBytes r ≤ Memory.len s.img - (s.pos + 2) →
      ∃ i, buildInstr s.params.imm16Order r ((s.ahead.drop 2).take (immBytes r)) = some i ∧
        step s = .next (after s (2 + immBytes r) (.ok i))) ∧
    (Memory.len s.img - (s.pos + 2) < immBytes r →
      step s = .next (after s (Memory.len s.img - s.pos)
        (.fail (.truncatedOperand { pfx := some 0xCB#8, opcode := b } (immBytes r) (Memory.len s.img - (s.pos + 2))))))) ∧
  (∀ (p : Params) (b : Byte), p.cbExt = [] → prefixEntry p 0xCB#8 b = none)

/-- What each failure kind records, when it arises, and where it leaves the cursor.
The rows of R13 and of the table of R195; the dangling prefix is D7 (log 7), the pair D22. -/
def Obligations.FailureLeavesTheConsumedBytes : Prop :=
  ∀ (s t : State) (f : Failure) (c : Nat), s.Inv → step s = .next t →
    t.ports = some { outcome := .fail f, consumed := c } →
    t.pos = s.pos + c ∧
    match f with
    | .streamExhausted => s.pos = Memory.len s.img ∧ c = 0
    | .unknownBaseOpcode b =>
      Memory.read s.img s.pos = some b ∧ b ∉ prefixSet ∧ baseEntry s.params b = none ∧ c = 1
    | .unknownPrefixedOpcode p b =>
      Memory.read s.img s.pos = some p ∧ p ∈ prefixSet ∧ Memory.read s.img (s.pos + 1) = some b ∧
      prefixEntry s.params p b = none ∧ c = 2
    | .truncatedOperand op n k =>
      k < n ∧ t.pos = Memory.len s.img ∧
      ((op.pfx = none ∧ op.opcode ∈ prefixSet ∧ Memory.read s.img s.pos = some op.opcode ∧ n = 1 ∧ k = 0 ∧ c = 1) ∨
       (op.pfx = none ∧ op.opcode ∉ prefixSet ∧ Memory.read s.img s.pos = some op.opcode ∧
        (baseEntry s.params op.opcode).map immBytes = some n ∧ c = 1 + k) ∨
       (∃ p, op.pfx = some p ∧ p ∈ prefixSet ∧ Memory.read s.img s.pos = some p ∧
        Memory.read s.img (s.pos + 1) = some op.opcode ∧
        (prefixEntry s.params p op.opcode).map immBytes = some n ∧ c = 2 + k))

/-- No transaction reports UnknownBaseOpcode of a prefix byte.
R162, the decision D24 of the spec: "No input produces `UnknownBaseOpcode(0xCB)`". -/
def Obligations.UnknownBaseNeverNamesAPrefix : Prop :=
  (∀ p : Params, baseEntry p 0xCB#8 = none) ∧
  ∀ (s t : State) (c : Nat), s.Inv → step s = .next t →
    t.ports ≠ some { outcome := .fail (.unknownBaseOpcode 0xCB#8), consumed := c }

/-- Without a secondary table and with no extension or EXT_LD8, only Load8 comes out, without flag effects.
Without an extension this follows R163 to R169, as R168 says: "No byte sequence decodes to any." With EXT_LD8 it rests on
R180, general knowledge of the spec (log 20). That a Load8 carries no flag effects is R82 and R140, by the spec's decision
D16 (log 22). -/
def Obligations.OnlyLoad8IsDecoded : Prop :=
  ∀ (s t : State) (i : Instruction) (c : Nat), s.Inv → s.params.cbExt = [] →
    (s.params.baseExt = [] ∨ s.params.baseExt = extLd8) → step s = .next t →
    t.ports = some { outcome := .ok i, consumed := c } →
    (∃ dst src, i = .load8 dst src) ∧ flagEffects i = none

/-- A step writes no byte of the image; only the cursor and the ports change.
R37. -/
def Obligations.StepChangesNoMemory : Prop :=
  ∀ s t : State, step s = .next t →
    (∀ a, Memory.read t.img a = Memory.read s.img a) ∧ t.img = s.img ∧ t.params = s.params ∧ s.pos ≤ t.pos ∧
    ∃ o, t.ports = some { outcome := o, consumed := t.pos - s.pos }

/-- What every instruction leaves unchanged.
R10 to R18, R37: the cursor is the only state an instruction writes. -/
def Obligations.ExecFrame : Prop :=
  ∀ (i : Instr) (s t : State), exec i s = .next t →
    (∀ a, Memory.read t.img a = Memory.read s.img a) ∧ t.img = s.img ∧ t.params = s.params ∧ s.pos ≤ t.pos ∧
    ∃ o, t.ports = some { outcome := o, consumed := t.pos - s.pos }

/-- A transaction makes at most 1 + MAX_LEN stream operations and consumes at most MAX_LEN bytes.
The bound of R120 (that one of the operations is the `Peek()` is not stated here) and R52. The value of MAX_LEN is the spec's
decision D27 (log 22); under EXT_LD8 it rests on R180, general knowledge of the spec (log 20). -/
def Obligations.StreamOperationsAreBounded : Prop :=
  (∀ s t : State, s.Inv → step s = .next t →
    streamOps s ≤ 1 + maxLen s.params ∧ t.pos ≤ s.pos + maxLen s.params) ∧
  maxLen Params.reference = 2 ∧ maxLen profileExtLd8 = 2

/-- Transactions that consume the same bytes under the same tables return equal outcomes.
R97. -/
def Obligations.EqualBytesGiveEqualOutcomes : Prop :=
  ∀ s t s' t' : State, s.Inv → t.Inv → s.params = t.params → step s = .next s' → step t = .next t' →
    s.ahead.take (s'.pos - s.pos) = t.ahead.take (t'.pos - t.pos) → s'.ports = t'.ports

/-- Bytes after the consumed ones have no influence unless the image ended.
R119, which the spec marks as derived. -/
def Obligations.LaterBytesHaveNoInfluence : Prop :=
  ∀ (s t s' : State) (o : DecodeOutcome) (c : Nat), s.Inv → t.Inv → s.params = t.params →
    step s = .next s' → s'.ports = some { outcome := o, consumed := c } → o ≠ .fail .streamExhausted →
    (∀ op n k, o ≠ .fail (.truncatedOperand op n k)) → t.ahead.take c = s.ahead.take c →
    step t = .next (after t c o)

/-- A transaction depends on the cursor and the image only, not on what was decoded before.
R123. -/
def Obligations.HistoryHasNoInfluence : Prop :=
  (∀ (s : State) (p : Option Ports), step { s with ports := p } = step s) ∧
  ∀ s t s' t' : State, s.Inv → t.Inv → s.params = t.params → s.ahead = t.ahead →
    step s = .next s' → step t = .next t' → s'.ports = t'.ports

/-- Repeated transactions reach the end of the image after at most LEN - pos of them.
R124, marked derived, and R233 (D25). -/
def Obligations.WalkReachesTheEnd : Prop :=
  ∀ s : State, s.Inv → ∃ k t, k ≤ Memory.len s.img - s.pos ∧ Host.Core.run Sys2Proof.core k s = .next t ∧
    t.Inv ∧ t.img = s.img ∧ t.pos = Memory.len s.img ∧
    step t = .next (after t 0 (.fail .streamExhausted))

/-- The counts of a whole walk add up to the bytes that were ahead.
R233 (D25): "every byte of the image has been consumed exactly once". -/
def Obligations.WalkConsumesEveryByteOnce : Prop :=
  ∀ s : State, s.Inv → ((walkAll s).map Ports.consumed).sum = Memory.len s.img - s.pos

/-- Decoding an encoded well-formed instruction gives it back, whatever follows.
R50, R53, R60, R61. The rows of R182 and R183 are general knowledge of the spec (log 20); that rows are selected whatever
tables are loaded is the model's choice (log 6). -/
def Obligations.DecodeOfEncodeIsTheInstruction : Prop :=
  ∀ i : Instr, i.wellFormed = true → decode (encode i) = .ok (i, []) ∧
    ∀ rest, i ≠ .prefixCb → decode (encode i ++ rest) = .ok (i, rest)

/-- What is decoded is well formed and encodes back to the bytes it was read from.
R51: "decode never consumes a partial or excess byte count for a given opcode". The rows of EXT_LD8 are general knowledge
of the spec (log 20), selected whatever tables are loaded (log 6). -/
def Obligations.EncodeOfDecodeIsTheBytes : Prop :=
  ∀ (bs : List Byte) (i : Instr) (rest : List Byte), decode bs = .ok (i, rest) →
    i.wellFormed = true ∧ encode i ++ rest = bs

/-- Bytes are rejected only when there is none or an immediate is missing.
R59: every byte value has a defined outcome. The spec's sourced rows of the pattern are 0x06 and 0x36; the pattern 00 ddd 110
is R183, general knowledge of the spec (log 20), and its rows are selected whatever tables are loaded, the model's choice
(log 6). -/
def Obligations.DecodeRejectsOnlyMissingBytes : Prop :=
  ∀ bs : List Byte,
    (decode bs = .error .exhausted ↔ bs = []) ∧
    (∀ f, decode bs = .error (.immediateMissing f) ↔ bs = [f] ∧ f &&& 0xC7#8 = 0x06#8) ∧
    ((∃ r, decode bs = .ok r) ∨ bs = [] ∨ ∃ f, bs = [f] ∧ f &&& 0xC7#8 = 0x06#8)

/-- Words written out from the encodings decode to their rows.
The rows of opcode_table.json; the numbering of a row's bits is log 15; the words of EXT_LD8 rows are general knowledge of the
spec (log 20), decoded whatever tables are loaded (log 6). -/
def Obligations.SampleWordsDecode : Prop :=
  decode [0b00000110#8, 0x02#8] = .ok (.ldBImm 0x02#8, []) ∧ decode [0b00110110#8, 0xFF#8] = .ok (.ldIndImm 0xFF#8, []) ∧
  decode [0b01111110#8] = .ok (.ldAInd, []) ∧ decode [0b01111111#8] = .ok (.ldAA, []) ∧
  decode [0b11001011#8] = .ok (.prefixCb, []) ∧ decode [0b11001011#8, 0x7F#8] = .ok (.unknownCb 0x7F#8, []) ∧
  decode [0x00#8, 0x06#8] = .ok (.unknownBase 0x00#8, [0x06#8]) ∧ decode [0x76#8] = .ok (.unknownBase 0x76#8, []) ∧
  decode [0b01000001#8] = .ok (.ldBC, []) ∧ decode [0b01110000#8] = .ok (.ldIndB, []) ∧
  decode [0b00001110#8, 0xCB#8] = .ok (.ldCImm 0xCB#8, []) ∧
  decodeTableWord 16 0x0600 = some (.ldBImm 0x00#8) ∧ decodeTableWord 8 0xCB = some .prefixCb

/-- The base table of the reference configuration (decision D5) and what EXT_LD8 leaves unknown (log 20).
R60, R161 (D5, log 22), opcode_table.json's counts for UNKNOWN_BASE. The count 184 and the entry of 0x76 under EXT_LD8 are R182
and R183, general knowledge of the spec (log 20). -/
def Obligations.ReferenceTableHasFourRecipes : Prop :=
  (∀ b : Byte, (baseEntry Params.reference b).isSome = [0x06#8, 0x36#8, 0x7E#8, 0x7F#8].contains b) ∧
  ((List.range 256).filter fun k => !prefixSet.contains (BitVec.ofNat 8 k) &&
    (baseEntry Params.reference (BitVec.ofNat 8 k)).isNone).length = 251 ∧
  ((List.range 256).filter fun k => !prefixSet.contains (BitVec.ofNat 8 k) &&
    (baseEntry profileExtLd8 (BitVec.ofNat 8 k)).isNone).length = 184 ∧
  baseEntry profileExtLd8 0x76#8 = none

/-- EXT_LD8 is the two patterns 01 ddd sss and 00 ddd 110 over the operand codes.
R180 to R183 (general knowledge of the spec, log 20; off by default). -/
def Obligations.ExtLd8FollowsItsPatterns : Prop :=
  (∀ d s : BitVec 3, ¬ (d = 0b110#3 ∧ s = 0b110#3) →
    baseEntry profileExtLd8 (0b01#2 ++ d ++ s) = some (.op (.load8 (codeDst d) (codeSrc s)))) ∧
  (∀ d : BitVec 3, baseEntry profileExtLd8 (0b00#2 ++ d ++ 0b110#3) =
    some (.opI8 (.load8 (codeDst d) (.immediate (.pulled 0))))) ∧
  extLd8.length = 67 ∧ launchRefusal (State.session profileExtLd8 []) = none

/-- Merging an extension adds entries and changes none.
R65 (c) (D5). -/
def Obligations.ExtensionsChangeNoSourcedEntry : Prop :=
  ∀ (p : Params) (b : Byte), b ∉ prefixSet →
    (∀ r, sourcedTable.lookup b = some r → baseEntry p b = some r) ∧
    (sourcedTable.lookup b = none → baseEntry p b = p.baseExt.lookup b)

/-- The value of a 16-bit immediate under each order.
R64 (D9). -/
def Obligations.Imm16FollowsTheOrder : Prop :=
  ∀ (t : InstructionOf (Slot8 2) Slot16) (b1 b2 : Byte),
    (∃ w : Word16, w.toNat = b1.toNat + 256 * b2.toNat ∧
      buildInstr (some .lowFirst) (.opI16 t) [b1, b2] = some (t.map (fillTwo b1 b2) (fillWord w))) ∧
    (∃ w : Word16, w.toNat = 256 * b1.toNat + b2.toNat ∧
      buildInstr (some .highFirst) (.opI16 t) [b1, b2] = some (t.map (fillTwo b1 b2) (fillWord w))) ∧
    buildInstr none (.opI16 t) [b1, b2] = none

/-- The address a partial-address operand names.
R87 (D18); the register values are those of the external engine (log 19). -/
def Obligations.PartialAddressValue : Prop :=
  ∀ (regs : Reg8 → Byte) (hi lo : Chunk8),
    (partialAddress regs hi lo).toNat = 256 * (chunkValue regs hi).toNat + (chunkValue regs lo).toNat

/-- The codes of the failure kinds and when each output is valid.
R121, R195 (D10), D26. -/
def Obligations.ErrorKindCodes : Prop :=
  ∀ (c : Nat) (i : Instruction) (b p : Byte) (op : OpId) (n k : Nat),
    Ports.errKind { outcome := .fail .streamExhausted, consumed := c } = some 0#2 ∧
    Ports.errKind { outcome := .fail (.unknownBaseOpcode b), consumed := c } = some 1#2 ∧
    Ports.errKind { outcome := .fail (.unknownPrefixedOpcode p b), consumed := c } = some 2#2 ∧
    Ports.errKind { outcome := .fail (.truncatedOperand op n k), consumed := c } = some 3#2 ∧
    (∀ q : Ports, q.okBit = true ↔ q.instrOut.isSome = true ∧ q.errKind = none ∧ q.errInfo = none) ∧
    (∀ q : Ports, q.okBit = false ↔ q.instrOut = none ∧ q.errKind.isSome = true ∧ q.errInfo.isSome = true) ∧
    Ports.instrOut { outcome := .ok i, consumed := c } = some i

/-- The four sourced loads complete in every state.
R140 to R144. -/
def Obligations.SourcedLoadsComplete : Prop :=
  ∀ (s : State) (i : Byte),
    exec (.ldBImm i) s = .next (after s 2 (.ok (.load8 (.register .B) (.immediate i)))) ∧
    exec (.ldIndImm i) s = .next (after s 2 (.ok (.load8 (.indirect .HL) (.immediate i)))) ∧
    exec .ldAInd s = .next (after s 1 (.ok (.load8 (.register .A) (.indirect .HL)))) ∧
    exec .ldAA s = .next (after s 1 (.ok (.load8 (.register .A) (.register .A))))

/-- With EXT_LD8 loaded the six immediate loads of the profile complete.
R180, R183 (general knowledge of the spec, log 20). -/
def Obligations.ExtImmediateLoadsComplete : Prop :=
  ∀ (s : State) (i : Byte), s.params.baseExt = extLd8 →
    exec (.ldCImm i) s = .next (after s 2 (.ok (.load8 (.register .C) (.immediate i)))) ∧
    exec (.ldDImm i) s = .next (after s 2 (.ok (.load8 (.register .D) (.immediate i)))) ∧
    exec (.ldEImm i) s = .next (after s 2 (.ok (.load8 (.register .E) (.immediate i)))) ∧
    exec (.ldHImm i) s = .next (after s 2 (.ok (.load8 (.register .H) (.immediate i)))) ∧
    exec (.ldLImm i) s = .next (after s 2 (.ok (.load8 (.register .L) (.immediate i)))) ∧
    exec (.ldAImm i) s = .next (after s 2 (.ok (.load8 (.register .A) (.immediate i))))

/-- With EXT_LD8 loaded the loads of the profile to Register(B) and Register(C) complete.
R180, R182 (general knowledge of the spec, log 20). -/
def Obligations.ExtLoadsToBAndCComplete : Prop :=
  ∀ s : State, s.params.baseExt = extLd8 →
    exec .ldBB s = .next (after s 1 (.ok (.load8 (.register .B) (.register .B)))) ∧
    exec .ldBC s = .next (after s 1 (.ok (.load8 (.register .B) (.register .C)))) ∧
    exec .ldBD s = .next (after s 1 (.ok (.load8 (.register .B) (.register .D)))) ∧
    exec .ldBE s = .next (after s 1 (.ok (.load8 (.register .B) (.register .E)))) ∧
    exec .ldBH s = .next (after s 1 (.ok (.load8 (.register .B) (.register .H)))) ∧
    exec .ldBL s = .next (after s 1 (.ok (.load8 (.register .B) (.register .L)))) ∧
    exec .ldBInd s = .next (after s 1 (.ok (.load8 (.register .B) (.indirect .HL)))) ∧
    exec .ldBA s = .next (after s 1 (.ok (.load8 (.register .B) (.register .A)))) ∧
    exec .ldCB s = .next (after s 1 (.ok (.load8 (.register .C) (.register .B)))) ∧
    exec .ldCC s = .next (after s 1 (.ok (.load8 (.register .C) (.register .C)))) ∧
    exec .ldCD s = .next (after s 1 (.ok (.load8 (.register .C) (.register .D)))) ∧
    exec .ldCE s = .next (after s 1 (.ok (.load8 (.register .C) (.register .E)))) ∧
    exec .ldCH s = .next (after s 1 (.ok (.load8 (.register .C) (.register .H)))) ∧
    exec .ldCL s = .next (after s 1 (.ok (.load8 (.register .C) (.register .L)))) ∧
    exec .ldCInd s = .next (after s 1 (.ok (.load8 (.register .C) (.indirect .HL)))) ∧
    exec .ldCA s = .next (after s 1 (.ok (.load8 (.register .C) (.register .A))))

/-- With EXT_LD8 loaded the loads of the profile to Register(D) and Register(E) complete.
R180, R182 (general knowledge of the spec, log 20). -/
def Obligations.ExtLoadsToDAndEComplete : Prop :=
  ∀ s : State, s.params.baseExt = extLd8 →
    exec .ldDB s = .next (after s 1 (.ok (.load8 (.register .D) (.register .B)))) ∧
    exec .ldDC s = .next (after s 1 (.ok (.load8 (.register .D) (.register .C)))) ∧
    exec .ldDD s = .next (after s 1 (.ok (.load8 (.register .D) (.register .D)))) ∧
    exec .ldDE s = .next (after s 1 (.ok (.load8 (.register .D) (.register .E)))) ∧
    exec .ldDH s = .next (after s 1 (.ok (.load8 (.register .D) (.register .H)))) ∧
    exec .ldDL s = .next (after s 1 (.ok (.load8 (.register .D) (.register .L)))) ∧
    exec .ldDInd s = .next (after s 1 (.ok (.load8 (.register .D) (.indirect .HL)))) ∧
    exec .ldDA s = .next (after s 1 (.ok (.load8 (.register .D) (.register .A)))) ∧
    exec .ldEB s = .next (after s 1 (.ok (.load8 (.register .E) (.register .B)))) ∧
    exec .ldEC s = .next (after s 1 (.ok (.load8 (.register .E) (.register .C)))) ∧
    exec .ldED s = .next (after s 1 (.ok (.load8 (.register .E) (.register .D)))) ∧
    exec .ldEE s = .next (after s 1 (.ok (.load8 (.register .E) (.register .E)))) ∧
    exec .ldEH s = .next (after s 1 (.ok (.load8 (.register .E) (.register .H)))) ∧
    exec .ldEL s = .next (after s 1 (.ok (.load8 (.register .E) (.register .L)))) ∧
    exec .ldEInd s = .next (after s 1 (.ok (.load8 (.register .E) (.indirect .HL)))) ∧
    exec .ldEA s = .next (after s 1 (.ok (.load8 (.register .E) (.register .A))))

/-- With EXT_LD8 loaded the loads of the profile to Register(H) and Register(L) complete.
R180, R182 (general knowledge of the spec, log 20). -/
def Obligations.ExtLoadsToHAndLComplete : Prop :=
  ∀ s : State, s.params.baseExt = extLd8 →
    exec .ldHB s = .next (after s 1 (.ok (.load8 (.register .H) (.register .B)))) ∧
    exec .ldHC s = .next (after s 1 (.ok (.load8 (.register .H) (.register .C)))) ∧
    exec .ldHD s = .next (after s 1 (.ok (.load8 (.register .H) (.register .D)))) ∧
    exec .ldHE s = .next (after s 1 (.ok (.load8 (.register .H) (.register .E)))) ∧
    exec .ldHH s = .next (after s 1 (.ok (.load8 (.register .H) (.register .H)))) ∧
    exec .ldHL s = .next (after s 1 (.ok (.load8 (.register .H) (.register .L)))) ∧
    exec .ldHInd s = .next (after s 1 (.ok (.load8 (.register .H) (.indirect .HL)))) ∧
    exec .ldHA s = .next (after s 1 (.ok (.load8 (.register .H) (.register .A)))) ∧
    exec .ldLB s = .next (after s 1 (.ok (.load8 (.register .L) (.register .B)))) ∧
    exec .ldLC s = .next (after s 1 (.ok (.load8 (.register .L) (.register .C)))) ∧
    exec .ldLD s = .next (after s 1 (.ok (.load8 (.register .L) (.register .D)))) ∧
    exec .ldLE s = .next (after s 1 (.ok (.load8 (.register .L) (.register .E)))) ∧
    exec .ldLH s = .next (after s 1 (.ok (.load8 (.register .L) (.register .H)))) ∧
    exec .ldLL s = .next (after s 1 (.ok (.load8 (.register .L) (.register .L)))) ∧
    exec .ldLInd s = .next (after s 1 (.ok (.load8 (.register .L) (.indirect .HL)))) ∧
    exec .ldLA s = .next (after s 1 (.ok (.load8 (.register .L) (.register .A))))

/-- With EXT_LD8 loaded the loads of the profile to Indirect(HL) and Register(A) complete.
R180, R182 (general knowledge of the spec, log 20). -/
def Obligations.ExtLoadsToIndirectAndAComplete : Prop :=
  ∀ s : State, s.params.baseExt = extLd8 →
    exec .ldIndB s = .next (after s 1 (.ok (.load8 (.indirect .HL) (.register .B)))) ∧
    exec .ldIndC s = .next (after s 1 (.ok (.load8 (.indirect .HL) (.register .C)))) ∧
    exec .ldIndD s = .next (after s 1 (.ok (.load8 (.indirect .HL) (.register .D)))) ∧
    exec .ldIndE s = .next (after s 1 (.ok (.load8 (.indirect .HL) (.register .E)))) ∧
    exec .ldIndH s = .next (after s 1 (.ok (.load8 (.indirect .HL) (.register .H)))) ∧
    exec .ldIndL s = .next (after s 1 (.ok (.load8 (.indirect .HL) (.register .L)))) ∧
    exec .ldIndA s = .next (after s 1 (.ok (.load8 (.indirect .HL) (.register .A)))) ∧
    exec .ldAB s = .next (after s 1 (.ok (.load8 (.register .A) (.register .B)))) ∧
    exec .ldAC s = .next (after s 1 (.ok (.load8 (.register .A) (.register .C)))) ∧
    exec .ldAD s = .next (after s 1 (.ok (.load8 (.register .A) (.register .D)))) ∧
    exec .ldAE s = .next (after s 1 (.ok (.load8 (.register .A) (.register .E)))) ∧
    exec .ldAH s = .next (after s 1 (.ok (.load8 (.register .A) (.register .H)))) ∧
    exec .ldAL s = .next (after s 1 (.ok (.load8 (.register .A) (.register .L))))

/-- Without a recipe every row of the profile fails with UnknownBaseOpcode after one byte.
The first clause is R160, said of every row by its first byte (log 6: a row is selected whatever tables are loaded). The second is
R161, the spec's decision D5 (log 22), over the 67 bytes of the profile (log 20). -/
def Obligations.ExtRowsAreUnknownByDefault : Prop :=
  (∀ (i : Instr) (s : State) (f : Byte), (encode i).head? = some f → f ∉ prefixSet → baseEntry s.params f = none →
    exec i s = .next (after s 1 (.fail (.unknownBaseOpcode f)))) ∧
  (extLd8.all fun e => (baseEntry Params.reference e.1).isNone) = true

/-- The rows UNKNOWN_BASE, UNKNOWN_CB and PREFIX_CB complete with their failure outcome.
R151 (D6, log 22), R152 (D7, log 7), R160. Which bytes the row UNKNOWN_BASE stands for leaves out the rows of EXT_LD8 (log 20),
whatever tables are loaded (log 6). -/
def Obligations.UnknownRowsComplete : Prop :=
  (∀ (s : State) (b : Byte), (Instr.unknownBase b).wellFormed = true → s.params.baseExt.lookup b = none →
    exec (.unknownBase b) s = .next (after s 1 (.fail (.unknownBaseOpcode b)))) ∧
  (∀ (s : State) (b : Byte), s.params.cbExt.lookup b = none →
    exec (.unknownCb b) s = .next (after s 2 (.fail (.unknownPrefixedOpcode 0xCB#8 b)))) ∧
  (∀ s : State, exec .prefixCb s = .next (after s 1 (.fail (.truncatedOperand { pfx := none, opcode := 0xCB#8 } 1 0))))
end

