-- ==== Sys2Proof/Laws/Decode.lean ====
section
/-! SUPPORT. What decoding and the dispatch over the rows can do, said once: a row is a base row, a prefixed row or the
dangling prefix. -/

namespace Sys2Proof

theorem mem_prefixSet {f : Byte} : f ∈ prefixSet ↔ f = 0xCB#8 := by simp [prefixSet]

theorem prefixSet_contains {f : Byte} : prefixSet.contains f = true ↔ f = 0xCB#8 := by simp [prefixSet]

/-- The first byte of a row with a plain lookup has that lookup. -/
theorem plainRows_mem {f : Byte} {i : Instr} (h : plainRows.lookup f = some i) : (f, i) ∈ plainRows := by
  obtain ⟨l₁, l₂, hl, _⟩ := List.lookup_eq_some_iff.mp h
  rw [hl]; simp

/-- Everything decoding a base byte can give. -/
theorem decodeBase_cases (f : Byte) (rest : List Byte) :
    (∃ i, plainRows.lookup f = some i ∧ decodeBase f rest = .ok (i, rest)) ∨
    (∃ mk v rest', plainRows.lookup f = none ∧ immRows.lookup f = some mk ∧ rest = v :: rest' ∧
      decodeBase f rest = .ok (mk v, rest')) ∨
    (∃ mk, plainRows.lookup f = none ∧ immRows.lookup f = some mk ∧ rest = [] ∧
      decodeBase f rest = .error (.immediateMissing f)) ∨
    (plainRows.lookup f = none ∧ immRows.lookup f = none ∧ decodeBase f rest = .ok (.unknownBase f, rest)) := by
  unfold decodeBase
  cases hp : plainRows.lookup f with
  | some i => exact .inl ⟨i, rfl, rfl⟩
  | none =>
    cases hi : immRows.lookup f with
    | none => exact .inr (.inr (.inr ⟨rfl, rfl, rfl⟩))
    | some mk =>
      cases rest with
      | nil => exact .inr (.inr (.inl ⟨mk, rfl, rfl, rfl, rfl⟩))
      | cons v rest' => exact .inr (.inl ⟨mk, v, rest', rfl, rfl, rfl, rfl⟩)

/-- Decoding on a first byte that is no prefix. -/
theorem decode_of_not_prefix {f : Byte} (h : f ∉ prefixSet) (rest : List Byte) :
    decode (f :: rest) = decodeBase f rest := by
  simp [decode, h]

theorem decode_prefix_cons (b : Byte) (rest : List Byte) : decode (0xCB#8 :: b :: rest) = .ok (.unknownCb b, rest) :=
  rfl

theorem decode_prefix_nil : decode [0xCB#8] = .ok (.prefixCb, []) := rfl

/-- The three shapes of a row. -/
inductive RowShape (i : Instr) : Prop where
  | base (f : Byte) (own : List Byte) (enc : encode i = f :: own)
      (run : ∀ s, Machine.exec i s = Machine.baseRow f own s)
      (first : f ∉ prefixSet ∨ ∃ b, i = .unknownBase b)
  | prefixed (b : Byte) (row : i = .unknownCb b)
  | dangling (row : i = .prefixCb)

/-- Every row is a base row of its first byte and the bytes after it, a prefixed row or the dangling prefix: exec in one
line. -/
theorem rowShape (i : Instr) : RowShape i := by
  cases i
  case prefixCb => exact .dangling rfl
  case unknownCb b => exact .prefixed b rfl
  case unknownBase b => exact .base b [] rfl (fun _ => rfl) (.inr ⟨b, rfl⟩)
  all_goals exact .base _ _ rfl (fun _ => rfl) (.inl (by decide))

end Sys2Proof
end

