-- ==== Sys2Proof/Laws/Memory.lean ====
section
/-! SUPPORT. The image: what reading gives, and that every operation keeps the canonical form. The main fact is that an
image in canonical form is the image of its byte sequence (`eq_ofBytes_of_wf`), which turns reading into list lookup. -/

namespace Sys2Proof.Machine.Memory

theorem length_cellsFrom (a : Nat) (bs : List Byte) : (cellsFrom a bs).length = bs.length := by
  induction bs generalizing a with
  | nil => rfl
  | cons b bs ih => simp [cellsFrom, ih]

theorem keys_cellsFrom (a : Nat) (bs : List Byte) :
    (cellsFrom a bs).map Prod.fst = List.range' a bs.length := by
  induction bs generalizing a with
  | nil => rfl
  | cons b bs ih => simp [cellsFrom, ih, List.range'_succ]

theorem bytes_cellsFrom (a : Nat) (bs : List Byte) : (cellsFrom a bs).map Prod.snd = bs := by
  induction bs generalizing a with
  | nil => rfl
  | cons b bs ih => simp [cellsFrom, ih]

theorem read_cellsFrom (a k : Nat) (bs : List Byte) :
    read (cellsFrom a bs) k = if a ≤ k then bs[k - a]? else none := by
  induction bs generalizing a with
  | nil => simp [cellsFrom, read]
  | cons b bs ih =>
    simp only [cellsFrom, read, ih]
    by_cases h : a = k
    · simp [h]
    · by_cases h' : a + 1 ≤ k
      · obtain ⟨j, rfl⟩ : ∃ j, k = a + 1 + j := ⟨k - (a + 1), by omega⟩
        have e1 : a + 1 + j - (a + 1) = j := by omega
        have e2 : a + 1 + j - a = j + 1 := by omega
        have e3 : a ≤ a + 1 + j := by omega
        rw [if_neg h, if_pos h', if_pos e3, e1, e2, List.getElem?_cons_succ]
      · have : ¬ a ≤ k := by omega
        simp [h, h', this]

/-- Reading an image of a byte sequence is looking the sequence up. -/
theorem read_ofBytes (bs : List Byte) (k : Nat) : read (ofBytes bs) k = bs[k]? := by
  simp [ofBytes, read_cellsFrom]

theorem ofBytes_wf (bs : List Byte) : wf (ofBytes bs) := by
  simp [wf, ofBytes, keys_cellsFrom, length_cellsFrom, List.range_eq_range']

theorem len_ofBytes (bs : List Byte) : len (ofBytes bs) = bs.length := length_cellsFrom 0 bs

theorem eq_cellsFrom_of_keys (m : Memory) (a : Nat) (h : m.map Prod.fst = List.range' a m.length) :
    m = cellsFrom a (m.map Prod.snd) := by
  induction m generalizing a with
  | nil => rfl
  | cons c m ih =>
    simp only [List.map_cons, List.length_cons, List.range'_succ, List.cons.injEq] at h
    simp only [List.map_cons, cellsFrom]
    rw [← ih (a + 1) h.2, ← h.1]

/-- An image in canonical form is the image of its byte sequence. -/
theorem eq_ofBytes_of_wf (m : Memory) (h : wf m) : m = ofBytes (m.map Prod.snd) :=
  eq_cellsFrom_of_keys m 0 (by rw [← List.range_eq_range']; exact h)

theorem read_of_wf {m : Memory} (h : wf m) (k : Nat) : read m k = (m.map Prod.snd)[k]? := by
  rw [eq_ofBytes_of_wf m h, read_ofBytes, ofBytes, bytes_cellsFrom]

/-- In canonical form exactly the indices below `LEN` have a byte (R39). -/
theorem read_isSome_iff {m : Memory} (h : wf m) (k : Nat) : (read m k).isSome ↔ k < len m := by
  simp [read_of_wf h, len]

theorem read_eq_none_iff {m : Memory} (h : wf m) (k : Nat) : read m k = none ↔ len m ≤ k := by
  simp [read_of_wf h, len]

theorem window_of_wf {m : Memory} (h : wf m) (k a : Nat) :
    window m k a = ((m.map Prod.snd).drop a).take k := by
  induction k generalizing a with
  | zero => simp [window]
  | succ k ih =>
    simp only [window, read_of_wf h, ih]
    by_cases ha : a < (m.map Prod.snd).length
    · rw [List.getElem?_eq_getElem ha, List.drop_eq_getElem_cons ha, List.take_succ_cons]
    · simp [List.getElem?_eq_none (Nat.le_of_not_lt ha), List.drop_eq_nil_of_le (Nat.le_of_not_lt ha)]

/-- In canonical form the bytes ahead of an index are the rest of the byte sequence. -/
theorem bytesFrom_of_wf {m : Memory} (h : wf m) (a : Nat) : bytesFrom m a = (m.map Prod.snd).drop a := by
  rw [bytesFrom, window_of_wf h, List.take_of_length_le]
  simp [len]

/-- The bytes ahead of an index, one byte at a time. -/
theorem bytesFrom_eq {m : Memory} (h : wf m) (a : Nat) :
    bytesFrom m a = match read m a with
      | some b => b :: bytesFrom m (a + 1)
      | none => [] := by
  simp only [bytesFrom_of_wf h, read_of_wf h]
  by_cases ha : a < (m.map Prod.snd).length
  · rw [List.getElem?_eq_getElem ha, List.drop_eq_getElem_cons ha]
  · simp [List.getElem?_eq_none (Nat.le_of_not_lt ha), List.drop_eq_nil_of_le (Nat.le_of_not_lt ha)]

theorem length_bytesFrom {m : Memory} (h : wf m) (a : Nat) : (bytesFrom m a).length = len m - a := by
  simp [bytesFrom_of_wf h, len]

/-- Reading the `k`-th byte ahead of an index. -/
theorem getElem?_bytesFrom {m : Memory} (h : wf m) (a k : Nat) : (bytesFrom m a)[k]? = read m (a + k) := by
  simp [bytesFrom_of_wf h, read_of_wf h]

theorem filter_cellsFrom_lt (a p : Nat) (bs : List Byte) :
    (cellsFrom a bs).filter (fun c => c.1 < p) = cellsFrom a (bs.take (p - a)) := by
  induction bs generalizing a with
  | nil => simp [cellsFrom]
  | cons b bs ih =>
    by_cases h : a < p
    · obtain ⟨j, hj⟩ : ∃ j, p - a = j + 1 := ⟨p - a - 1, by omega⟩
      have : p - (a + 1) = j := by omega
      simp [cellsFrom, h, ih, hj, this]
    · have h0 : p - a = 0 := by omega
      have h1 : p - (a + 1) = 0 := by omega
      simp [cellsFrom, h, ih, h0, h1]

theorem cellsFrom_append (a : Nat) (xs ys : List Byte) :
    cellsFrom a (xs ++ ys) = cellsFrom a xs ++ cellsFrom (a + xs.length) ys := by
  induction xs generalizing a with
  | nil => simp [cellsFrom]
  | cons x xs ih => simp [cellsFrom, ih, Nat.add_assoc, Nat.add_comm 1]

/-- Placing bytes at the cursor keeps what lies before it and ends the image after them. -/
theorem placeAt_eq {m : Memory} (h : wf m) {a : Nat} (ha : a ≤ len m) (bs : List Byte) :
    placeAt m a bs = ofBytes ((m.map Prod.snd).take a ++ bs) := by
  have hl : ((m.map Prod.snd).take a).length = a := by
    simp only [List.length_take, List.length_map]
    exact Nat.min_eq_left ha
  conv => lhs; rw [eq_ofBytes_of_wf m h]
  rw [placeAt, ofBytes, filter_cellsFrom_lt, Nat.sub_zero, ofBytes, cellsFrom_append, hl, Nat.zero_add]

theorem placeAt_wf {m : Memory} (h : wf m) {a : Nat} (ha : a ≤ len m) (bs : List Byte) :
    wf (placeAt m a bs) := by
  rw [placeAt_eq h ha]; exact ofBytes_wf _

end Sys2Proof.Machine.Memory

namespace Sys2Proof.Machine

/-- The image after reset is in canonical form. -/
theorem reset_img_wf : Memory.wf State.reset.img := by decide

/-- The operation that places an instruction keeps the image in canonical form. -/
theorem withFetchWord_img_wf {s : State} (h : inImage s) (nbits w : Nat) :
    Memory.wf (s.withFetchWord nbits w).img := Memory.placeAt_wf h.1 h.2 _

end Sys2Proof.Machine
end

