-- ==== Sys2Proof/Laws/State.lean ====
section
/-! SUPPORT. One lemma for each field of State after each operation that updates it, so that no proof unfolds a record
update. -/

namespace Sys2Proof.Machine

@[simp] theorem conclude_pos (n : Nat) (o : DecodeOutcome) (s : State) :
    (conclude n o s).pos = s.pos + n := rfl
@[simp] theorem conclude_img (n : Nat) (o : DecodeOutcome) (s : State) :
    (conclude n o s).img = s.img := rfl
@[simp] theorem conclude_params (n : Nat) (o : DecodeOutcome) (s : State) :
    (conclude n o s).params = s.params := rfl
@[simp] theorem conclude_ports (n : Nat) (o : DecodeOutcome) (s : State) :
    (conclude n o s).ports = some { outcome := o, consumed := n } := rfl

@[simp] theorem returnOk_pos (n : Nat) (i : Instruction) (s : State) :
    (returnOk n i s).pos = s.pos + n := rfl
@[simp] theorem returnOk_img (n : Nat) (i : Instruction) (s : State) :
    (returnOk n i s).img = s.img := rfl
@[simp] theorem returnOk_params (n : Nat) (i : Instruction) (s : State) :
    (returnOk n i s).params = s.params := rfl
@[simp] theorem returnOk_ports (n : Nat) (i : Instruction) (s : State) :
    (returnOk n i s).ports = some { outcome := .ok i, consumed := n } := rfl

@[simp] theorem raiseFailure_pos (n : Nat) (f : Failure) (s : State) :
    (raiseFailure n f s).pos = s.pos + n := rfl
@[simp] theorem raiseFailure_img (n : Nat) (f : Failure) (s : State) :
    (raiseFailure n f s).img = s.img := rfl
@[simp] theorem raiseFailure_params (n : Nat) (f : Failure) (s : State) :
    (raiseFailure n f s).params = s.params := rfl
@[simp] theorem raiseFailure_ports (n : Nat) (f : Failure) (s : State) :
    (raiseFailure n f s).ports = some { outcome := .fail f, consumed := n } := rfl

@[simp] theorem finish_pos (p0 : Nat) (o : DecodeOutcome) (s : State) :
    (finish p0 o s).pos = s.pos := rfl
@[simp] theorem finish_img (p0 : Nat) (o : DecodeOutcome) (s : State) :
    (finish p0 o s).img = s.img := rfl
@[simp] theorem finish_params (p0 : Nat) (o : DecodeOutcome) (s : State) :
    (finish p0 o s).params = s.params := rfl
@[simp] theorem finish_ports (p0 : Nat) (o : DecodeOutcome) (s : State) :
    (finish p0 o s).ports = some { outcome := o, consumed := s.pos - p0 } := rfl

@[simp] theorem session_pos (p : Params) (bytes : List Byte) :
    (State.session p bytes).pos = 0 := rfl
@[simp] theorem session_img (p : Params) (bytes : List Byte) :
    (State.session p bytes).img = Memory.ofBytes bytes := rfl
@[simp] theorem session_params (p : Params) (bytes : List Byte) :
    (State.session p bytes).params = p := rfl
@[simp] theorem session_ports (p : Params) (bytes : List Byte) :
    (State.session p bytes).ports = none := rfl

@[simp] theorem reset_pos :
    (State.reset).pos = 0 := rfl
@[simp] theorem reset_img :
    (State.reset).img = [] := rfl
@[simp] theorem reset_params :
    (State.reset).params = Params.reference := rfl
@[simp] theorem reset_ports :
    (State.reset).ports = none := rfl

@[simp] theorem withFetchWord_pos (s : State) (nbits w : Nat) :
    (s.withFetchWord nbits w).pos = s.pos := rfl
@[simp] theorem withFetchWord_img (s : State) (nbits w : Nat) :
    (s.withFetchWord nbits w).img = Memory.placeAt s.img s.pos (tableWordBytes nbits w) := rfl
@[simp] theorem withFetchWord_params (s : State) (nbits w : Nat) :
    (s.withFetchWord nbits w).params = s.params := rfl
@[simp] theorem withFetchWord_ports (s : State) (nbits w : Nat) :
    (s.withFetchWord nbits w).ports = s.ports := rfl

end Sys2Proof.Machine
end

