-- ==== Sys2Proof/Laws/Ops.lean ====
section
/-! SUPPORT. For each shared operation one lemma that says everything it can do: the stream operations, Construct, and
the ways a transaction starts. Later proofs cite these and do not unfold the operation. -/

namespace Sys2Proof.Machine

theorem peek_of_read {s : State} {b : Byte} (h : Memory.read s.img s.pos = some b) : peek s = .byte b := by
  simp [peek, h]

theorem peek_of_no_byte {s : State} (h : Memory.read s.img s.pos = none) : peek s = .exhausted := by
  simp [peek, h]

theorem next_of_read {s : State} {b : Byte} (h : Memory.read s.img s.pos = some b) :
    next s = (.byte b, { s with pos := s.pos + 1 }) := by
  simp [next, h]

theorem next_of_no_byte {s : State} (h : Memory.read s.img s.pos = none) : next s = (.exhausted, s) := by
  simp [next, h]

/-- The bytes ahead, when the cursor is on a byte. -/
theorem ahead_of_read {s : State} (hw : Memory.wf s.img) {b : Byte} (h : Memory.read s.img s.pos = some b) :
    s.ahead = b :: Memory.bytesFrom s.img (s.pos + 1) := by
  rw [State.ahead, Memory.bytesFrom_eq hw, h]

theorem ahead_of_no_byte {s : State} (hw : Memory.wf s.img) (h : Memory.read s.img s.pos = none) :
    s.ahead = [] := by
  rw [State.ahead, Memory.bytesFrom_eq hw, h]

theorem length_ahead {s : State} (hw : Memory.wf s.img) : s.ahead.length = Memory.len s.img - s.pos :=
  Memory.length_bytesFrom hw s.pos

/-- `build` has a value on exactly `n` bytes, unless it needs an order that is unset (R58, R64). -/
theorem buildInstr_isSome {order : Option ByteOrder} {r : Recipe} {imm : List Byte}
    (hn : imm.length = immBytes r) (ho : immBytes r = 2 → order.isSome = true) :
    ∃ i, buildInstr order r imm = some i := by
  match r, imm, hn with
  | .op i, [], _ => exact ⟨i, rfl⟩
  | .opI8 t, [v], _ => exact ⟨_, rfl⟩
  | .opI16 t, [v1, v2], _ =>
    obtain ⟨o, rfl⟩ := Option.isSome_iff_exists.mp (ho rfl)
    exact ⟨_, rfl⟩

/-- Everything Construct can do when it answers a next state. -/
theorem construct_cases {op : OpId} {r : Recipe} {h : Nat} {pending : List Byte} {s t : State}
    (hx : construct op r h pending s = .next t) :
    (immBytes r ≤ pending.length ∧ ∃ i, buildInstr s.params.imm16Order r (pending.take (immBytes r)) = some i ∧
      t = returnOk (h + immBytes r) i s) ∨
    (pending.length < immBytes r ∧
      t = raiseFailure (h + pending.length) (.truncatedOperand op (immBytes r) pending.length) s) := by
  unfold construct at hx
  split at hx
  · next hle =>
    split at hx
    · next i hi => exact .inl ⟨hle, i, hi, (Host.Outcome.next.inj hx).symm⟩
    · cases hx
  · next hlt => exact .inr ⟨Nat.lt_of_not_le hlt, (Host.Outcome.next.inj hx).symm⟩

theorem construct_of_enough {op : OpId} {r : Recipe} {h : Nat} {pending : List Byte} {s : State} {i : Instruction}
    (hle : immBytes r ≤ pending.length)
    (hi : buildInstr s.params.imm16Order r (pending.take (immBytes r)) = some i) :
    construct op r h pending s = .next (returnOk (h + immBytes r) i s) := by
  simp [construct, hle, hi]

theorem construct_of_short {op : OpId} {r : Recipe} {h : Nat} {pending : List Byte} {s : State}
    (hlt : pending.length < immBytes r) :
    construct op r h pending s =
      .next (raiseFailure (h + pending.length) (.truncatedOperand op (immBytes r) pending.length) s) := by
  simp [construct, Nat.not_le.mpr hlt]

theorem baseRow_of_unknown {f : Byte} {own : List Byte} {s : State} (h : baseEntry s.params f = none) :
    baseRow f own s = .next (raiseFailure 1 (.unknownBaseOpcode f) s) := by
  simp [baseRow, h]

theorem baseRow_of_recipe {f : Byte} {own : List Byte} {s : State} {r : Recipe} (h : baseEntry s.params f = some r) :
    baseRow f own s = construct { pfx := none, opcode := f } r 1 (pendingAfter 1 own s) s := by
  simp [baseRow, h]

theorem prefixedRow_of_unknown {p b : Byte} {s : State} (h : prefixEntry s.params p b = none) :
    prefixedRow p b s = .next (raiseFailure 2 (.unknownPrefixedOpcode p b) s) := by
  simp [prefixedRow, h]

theorem prefixedRow_of_recipe {p b : Byte} {s : State} {r : Recipe} (h : prefixEntry s.params p b = some r) :
    prefixedRow p b s = construct { pfx := some p, opcode := b } r 2 (pendingAfter 2 [] s) s := by
  simp [prefixedRow, h]

/-- A transaction that answers a next state ends with `conclude`. -/
theorem construct_concludes {op : OpId} {r : Recipe} {h : Nat} {pending : List Byte} {s t : State}
    (hx : construct op r h pending s = .next t) : ∃ n o, t = conclude n o s := by
  obtain ⟨_, i, _, rfl⟩ | ⟨_, rfl⟩ := construct_cases hx
  · exact ⟨_, _, rfl⟩
  · exact ⟨_, _, rfl⟩

theorem baseRow_concludes {f : Byte} {own : List Byte} {s t : State} (hx : baseRow f own s = .next t) :
    ∃ n o, t = conclude n o s := by
  cases h : baseEntry s.params f with
  | none =>
    rw [baseRow_of_unknown h] at hx
    exact ⟨_, _, (Host.Outcome.next.inj hx).symm⟩
  | some r =>
    rw [baseRow_of_recipe h] at hx
    exact construct_concludes hx

theorem prefixedRow_concludes {p b : Byte} {s t : State} (hx : prefixedRow p b s = .next t) :
    ∃ n o, t = conclude n o s := by
  cases h : prefixEntry s.params p b with
  | none =>
    rw [prefixedRow_of_unknown h] at hx
    exact ⟨_, _, (Host.Outcome.next.inj hx).symm⟩
  | some r =>
    rw [prefixedRow_of_recipe h] at hx
    exact construct_concludes hx

/-- In place, the row's own bytes and the image after them are the bytes the stream has still to deliver. -/
theorem pendingAfter_of_split {s : State} (hw : Memory.wf s.img) {h : Nat} {own rest : List Byte}
    (hb : Memory.bytesFrom s.img (s.pos + h) = own ++ rest) :
    pendingAfter h own s = Memory.bytesFrom s.img (s.pos + h) := by
  have : Memory.bytesFrom s.img (s.pos + h + own.length) = rest := by
    rw [Memory.bytesFrom_of_wf hw] at hb ⊢
    rw [← List.drop_drop, hb, List.drop_left]
  rw [pendingAfter, this, hb]

end Sys2Proof.Machine
end

