-- ==== Sys2Proof/Laws/PerInstr.lean ====
section
/-! SUPPORT. The per-instruction family EncodedLength: the length of each row is the one its format gives (30_encoding.md
R51, R53; "length_bytes" of opcode_table.json), and only the two rows of the prefix start with it (R55). -/

namespace Sys2Proof.Laws.EncodedLength

/-- The length of the row in bytes, by its format (R53). -/
def rowLength : Instr → Nat
  | .prefixCb => 1
  | .unknownCb _ => 2
  | .unknownBase _ => 1
  | .ldBImm _ => 2
  | .ldCImm _ => 2
  | .ldDImm _ => 2
  | .ldEImm _ => 2
  | .ldHImm _ => 2
  | .ldLImm _ => 2
  | .ldIndImm _ => 2
  | .ldAImm _ => 2
  | .ldBB => 1
  | .ldBC => 1
  | .ldBD => 1
  | .ldBE => 1
  | .ldBH => 1
  | .ldBL => 1
  | .ldBInd => 1
  | .ldBA => 1
  | .ldCB => 1
  | .ldCC => 1
  | .ldCD => 1
  | .ldCE => 1
  | .ldCH => 1
  | .ldCL => 1
  | .ldCInd => 1
  | .ldCA => 1
  | .ldDB => 1
  | .ldDC => 1
  | .ldDD => 1
  | .ldDE => 1
  | .ldDH => 1
  | .ldDL => 1
  | .ldDInd => 1
  | .ldDA => 1
  | .ldEB => 1
  | .ldEC => 1
  | .ldED => 1
  | .ldEE => 1
  | .ldEH => 1
  | .ldEL => 1
  | .ldEInd => 1
  | .ldEA => 1
  | .ldHB => 1
  | .ldHC => 1
  | .ldHD => 1
  | .ldHE => 1
  | .ldHH => 1
  | .ldHL => 1
  | .ldHInd => 1
  | .ldHA => 1
  | .ldLB => 1
  | .ldLC => 1
  | .ldLD => 1
  | .ldLE => 1
  | .ldLH => 1
  | .ldLL => 1
  | .ldLInd => 1
  | .ldLA => 1
  | .ldIndB => 1
  | .ldIndC => 1
  | .ldIndD => 1
  | .ldIndE => 1
  | .ldIndH => 1
  | .ldIndL => 1
  | .ldIndA => 1
  | .ldAB => 1
  | .ldAC => 1
  | .ldAD => 1
  | .ldAE => 1
  | .ldAH => 1
  | .ldAL => 1
  | .ldAInd => 1
  | .ldAA => 1

/-- The encoding has the length of its row, and a well-formed base row does not start with a prefix. -/
def Statement (i : Instr) : Prop :=
  (encode i).length = rowLength i ∧
    (i.wellFormed = true → (∃ f ∈ prefixSet, (encode i).head? = some f) → i = .prefixCb ∨ ∃ b, i = .unknownCb b)

theorem not_prefix_of_head {i : Instr} {f : Byte} (h : (encode i).head? = some f) (hf : f ∉ prefixSet) :
    ¬ ∃ f ∈ prefixSet, (encode i).head? = some f := by
  rintro ⟨g, hg, e⟩
  rw [h] at e
  exact hf (Option.some.inj e ▸ hg)

theorem prefixCb : Statement .prefixCb := ⟨rfl, fun _ _ => .inl rfl⟩
theorem unknownCb (b : Byte) : Statement (.unknownCb b) := ⟨rfl, fun _ _ => .inr ⟨b, rfl⟩⟩
theorem unknownBase (b : Byte) : Statement (.unknownBase b) := by
  refine ⟨rfl, fun hw h => absurd h (not_prefix_of_head rfl fun hb => ?_)⟩
  simp [Instr.wellFormed, hasOwnRow, hb] at hw
theorem ldBImm (i : Byte) : Statement (.ldBImm i) :=
  ⟨rfl, fun _ h => absurd h (not_prefix_of_head rfl (by decide))⟩
theorem ldCImm (i : Byte) : Statement (.ldCImm i) :=
  ⟨rfl, fun _ h => absurd h (not_prefix_of_head rfl (by decide))⟩
theorem ldDImm (i : Byte) : Statement (.ldDImm i) :=
  ⟨rfl, fun _ h => absurd h (not_prefix_of_head rfl (by decide))⟩
theorem ldEImm (i : Byte) : Statement (.ldEImm i) :=
  ⟨rfl, fun _ h => absurd h (not_prefix_of_head rfl (by decide))⟩
theorem ldHImm (i : Byte) : Statement (.ldHImm i) :=
  ⟨rfl, fun _ h => absurd h (not_prefix_of_head rfl (by decide))⟩
theorem ldLImm (i : Byte) : Statement (.ldLImm i) :=
  ⟨rfl, fun _ h => absurd h (not_prefix_of_head rfl (by decide))⟩
theorem ldIndImm (i : Byte) : Statement (.ldIndImm i) :=
  ⟨rfl, fun _ h => absurd h (not_prefix_of_head rfl (by decide))⟩
theorem ldAImm (i : Byte) : Statement (.ldAImm i) :=
  ⟨rfl, fun _ h => absurd h (not_prefix_of_head rfl (by decide))⟩
theorem ldBB : Statement .ldBB :=
  ⟨rfl, fun _ h => absurd h (not_prefix_of_head rfl (by decide))⟩
theorem ldBC : Statement .ldBC :=
  ⟨rfl, fun _ h => absurd h (not_prefix_of_head rfl (by decide))⟩
theorem ldBD : Statement .ldBD :=
  ⟨rfl, fun _ h => absurd h (not_prefix_of_head rfl (by decide))⟩
theorem ldBE : Statement .ldBE :=
  ⟨rfl, fun _ h => absurd h (not_prefix_of_head rfl (by decide))⟩
theorem ldBH : Statement .ldBH :=
  ⟨rfl, fun _ h => absurd h (not_prefix_of_head rfl (by decide))⟩
theorem ldBL : Statement .ldBL :=
  ⟨rfl, fun _ h => absurd h (not_prefix_of_head rfl (by decide))⟩
theorem ldBInd : Statement .ldBInd :=
  ⟨rfl, fun _ h => absurd h (not_prefix_of_head rfl (by decide))⟩
theorem ldBA : Statement .ldBA :=
  ⟨rfl, fun _ h => absurd h (not_prefix_of_head rfl (by decide))⟩
theorem ldCB : Statement .ldCB :=
  ⟨rfl, fun _ h => absurd h (not_prefix_of_head rfl (by decide))⟩
theorem ldCC : Statement .ldCC :=
  ⟨rfl, fun _ h => absurd h (not_prefix_of_head rfl (by decide))⟩
theorem ldCD : Statement .ldCD :=
  ⟨rfl, fun _ h => absurd h (not_prefix_of_head rfl (by decide))⟩
theorem ldCE : Statement .ldCE :=
  ⟨rfl, fun _ h => absurd h (not_prefix_of_head rfl (by decide))⟩
theorem ldCH : Statement .ldCH :=
  ⟨rfl, fun _ h => absurd h (not_prefix_of_head rfl (by decide))⟩
theorem ldCL : Statement .ldCL :=
  ⟨rfl, fun _ h => absurd h (not_prefix_of_head rfl (by decide))⟩
theorem ldCInd : Statement .ldCInd :=
  ⟨rfl, fun _ h => absurd h (not_prefix_of_head rfl (by decide))⟩
theorem ldCA : Statement .ldCA :=
  ⟨rfl, fun _ h => absurd h (not_prefix_of_head rfl (by decide))⟩
theorem ldDB : Statement .ldDB :=
  ⟨rfl, fun _ h => absurd h (not_prefix_of_head rfl (by decide))⟩
theorem ldDC : Statement .ldDC :=
  ⟨rfl, fun _ h => absurd h (not_prefix_of_head rfl (by decide))⟩
theorem ldDD : Statement .ldDD :=
  ⟨rfl, fun _ h => absurd h (not_prefix_of_head rfl (by decide))⟩
theorem ldDE : Statement .ldDE :=
  ⟨rfl, fun _ h => absurd h (not_prefix_of_head rfl (by decide))⟩
theorem ldDH : Statement .ldDH :=
  ⟨rfl, fun _ h => absurd h (not_prefix_of_head rfl (by decide))⟩
theorem ldDL : Statement .ldDL :=
  ⟨rfl, fun _ h => absurd h (not_prefix_of_head rfl (by decide))⟩
theorem ldDInd : Statement .ldDInd :=
  ⟨rfl, fun _ h => absurd h (not_prefix_of_head rfl (by decide))⟩
theorem ldDA : Statement .ldDA :=
  ⟨rfl, fun _ h => absurd h (not_prefix_of_head rfl (by decide))⟩
theorem ldEB : Statement .ldEB :=
  ⟨rfl, fun _ h => absurd h (not_prefix_of_head rfl (by decide))⟩
theorem ldEC : Statement .ldEC :=
  ⟨rfl, fun _ h => absurd h (not_prefix_of_head rfl (by decide))⟩
theorem ldED : Statement .ldED :=
  ⟨rfl, fun _ h => absurd h (not_prefix_of_head rfl (by decide))⟩
theorem ldEE : Statement .ldEE :=
  ⟨rfl, fun _ h => absurd h (not_prefix_of_head rfl (by decide))⟩
theorem ldEH : Statement .ldEH :=
  ⟨rfl, fun _ h => absurd h (not_prefix_of_head rfl (by decide))⟩
theorem ldEL : Statement .ldEL :=
  ⟨rfl, fun _ h => absurd h (not_prefix_of_head rfl (by decide))⟩
theorem ldEInd : Statement .ldEInd :=
  ⟨rfl, fun _ h => absurd h (not_prefix_of_head rfl (by decide))⟩
theorem ldEA : Statement .ldEA :=
  ⟨rfl, fun _ h => absurd h (not_prefix_of_head rfl (by decide))⟩
theorem ldHB : Statement .ldHB :=
  ⟨rfl, fun _ h => absurd h (not_prefix_of_head rfl (by decide))⟩
theorem ldHC : Statement .ldHC :=
  ⟨rfl, fun _ h => absurd h (not_prefix_of_head rfl (by decide))⟩
theorem ldHD : Statement .ldHD :=
  ⟨rfl, fun _ h => absurd h (not_prefix_of_head rfl (by decide))⟩
theorem ldHE : Statement .ldHE :=
  ⟨rfl, fun _ h => absurd h (not_prefix_of_head rfl (by decide))⟩
theorem ldHH : Statement .ldHH :=
  ⟨rfl, fun _ h => absurd h (not_prefix_of_head rfl (by decide))⟩
theorem ldHL : Statement .ldHL :=
  ⟨rfl, fun _ h => absurd h (not_prefix_of_head rfl (by decide))⟩
theorem ldHInd : Statement .ldHInd :=
  ⟨rfl, fun _ h => absurd h (not_prefix_of_head rfl (by decide))⟩
theorem ldHA : Statement .ldHA :=
  ⟨rfl, fun _ h => absurd h (not_prefix_of_head rfl (by decide))⟩
theorem ldLB : Statement .ldLB :=
  ⟨rfl, fun _ h => absurd h (not_prefix_of_head rfl (by decide))⟩
theorem ldLC : Statement .ldLC :=
  ⟨rfl, fun _ h => absurd h (not_prefix_of_head rfl (by decide))⟩
theorem ldLD : Statement .ldLD :=
  ⟨rfl, fun _ h => absurd h (not_prefix_of_head rfl (by decide))⟩
theorem ldLE : Statement .ldLE :=
  ⟨rfl, fun _ h => absurd h (not_prefix_of_head rfl (by decide))⟩
theorem ldLH : Statement .ldLH :=
  ⟨rfl, fun _ h => absurd h (not_prefix_of_head rfl (by decide))⟩
theorem ldLL : Statement .ldLL :=
  ⟨rfl, fun _ h => absurd h (not_prefix_of_head rfl (by decide))⟩
theorem ldLInd : Statement .ldLInd :=
  ⟨rfl, fun _ h => absurd h (not_prefix_of_head rfl (by decide))⟩
theorem ldLA : Statement .ldLA :=
  ⟨rfl, fun _ h => absurd h (not_prefix_of_head rfl (by decide))⟩
theorem ldIndB : Statement .ldIndB :=
  ⟨rfl, fun _ h => absurd h (not_prefix_of_head rfl (by decide))⟩
theorem ldIndC : Statement .ldIndC :=
  ⟨rfl, fun _ h => absurd h (not_prefix_of_head rfl (by decide))⟩
theorem ldIndD : Statement .ldIndD :=
  ⟨rfl, fun _ h => absurd h (not_prefix_of_head rfl (by decide))⟩
theorem ldIndE : Statement .ldIndE :=
  ⟨rfl, fun _ h => absurd h (not_prefix_of_head rfl (by decide))⟩
theorem ldIndH : Statement .ldIndH :=
  ⟨rfl, fun _ h => absurd h (not_prefix_of_head rfl (by decide))⟩
theorem ldIndL : Statement .ldIndL :=
  ⟨rfl, fun _ h => absurd h (not_prefix_of_head rfl (by decide))⟩
theorem ldIndA : Statement .ldIndA :=
  ⟨rfl, fun _ h => absurd h (not_prefix_of_head rfl (by decide))⟩
theorem ldAB : Statement .ldAB :=
  ⟨rfl, fun _ h => absurd h (not_prefix_of_head rfl (by decide))⟩
theorem ldAC : Statement .ldAC :=
  ⟨rfl, fun _ h => absurd h (not_prefix_of_head rfl (by decide))⟩
theorem ldAD : Statement .ldAD :=
  ⟨rfl, fun _ h => absurd h (not_prefix_of_head rfl (by decide))⟩
theorem ldAE : Statement .ldAE :=
  ⟨rfl, fun _ h => absurd h (not_prefix_of_head rfl (by decide))⟩
theorem ldAH : Statement .ldAH :=
  ⟨rfl, fun _ h => absurd h (not_prefix_of_head rfl (by decide))⟩
theorem ldAL : Statement .ldAL :=
  ⟨rfl, fun _ h => absurd h (not_prefix_of_head rfl (by decide))⟩
theorem ldAInd : Statement .ldAInd :=
  ⟨rfl, fun _ h => absurd h (not_prefix_of_head rfl (by decide))⟩
theorem ldAA : Statement .ldAA :=
  ⟨rfl, fun _ h => absurd h (not_prefix_of_head rfl (by decide))⟩

end Sys2Proof.Laws.EncodedLength
end

