-- ==== Sys2Proof/Laws/Run.lean ====
section
/-! SUPPORT. Running the machine: one transaction at a time. -/

namespace Sys2Proof.Machine

theorem run_of_next (M : Host.Core) (k : Nat) {s t : M.State} (h : M.step s = .next t) :
    M.run (k + 1) s = M.run k t := by
  simp only [Host.Core.run, h]

/-- A run whose first transaction answers a next state goes on from that state. -/
theorem core_run_of_next (k : Nat) {s t : State} (h : step s = .next t) :
    Host.Core.run Sys2Proof.core (k + 1) s = Host.Core.run Sys2Proof.core k t :=
  run_of_next Sys2Proof.core k h

end Sys2Proof.Machine
end

