-- ==== Sys2Proof/Laws/Step.lean ====
section
/-! SUPPORT. Everything a step can do from a state of the invariant, said once by the bytes at the cursor: nothing, a
prefix alone, a prefix and a byte, another byte. Later proofs cite `step_cases` and its four equations. -/

namespace Sys2Proof.Machine

theorem plainRows_encode : ∀ e ∈ plainRows, encode e.2 = [e.1] := by decide

theorem immRows_encode (v : Byte) : ∀ e ∈ immRows, encode (e.2 v) = [e.1, v] := by
  simp [immRows, encode]

/-- The meaning of a row, when the row is not one of the prefix: the base transaction of its bytes. -/
theorem exec_of_encode {i : Instr} {f : Byte} {own : List Byte} (he : encode i = f :: own) (hf : f ∉ prefixSet)
    (s : State) : exec i s = baseRow f own s := by
  cases rowShape i with
  | base g own' enc run _ =>
    obtain ⟨rfl, rfl⟩ := List.cons.inj (enc.symm.trans he)
    exact run s
  | prefixed b row =>
    subst row
    exact absurd (mem_prefixSet.mpr (List.cons.inj he).1.symm) hf
  | dangling row =>
    subst row
    exact absurd (mem_prefixSet.mpr (List.cons.inj he).1.symm) hf

theorem step_of_inv {s : State} (h : s.Inv) :
    step s = match decode s.ahead with
      | .ok (i, _) => exec i s
      | .error r => incomplete r s := by
  unfold step launch
  rw [if_pos ⟨h.1, h.2.1⟩, h.2.2] <;> rfl

/-- At the end of the image: nothing consumed (R191). -/
theorem step_at_end {s : State} (h : s.Inv) (hp : s.pos = Memory.len s.img) :
    step s = .next (raiseFailure 0 .streamExhausted s) := by
  have hr : Memory.read s.img s.pos = none := (Memory.read_eq_none_iff h.1 _).mpr (Nat.le_of_eq hp.symm)
  rw [step_of_inv h, ahead_of_no_byte h.1 hr]
  rfl

/-- A prefix as the last byte (R152). -/
theorem step_dangling {s : State} (h : s.Inv) {p : Byte} (hr : Memory.read s.img s.pos = some p) (hp : p ∈ prefixSet)
    (hr' : Memory.read s.img (s.pos + 1) = none) : step s = danglingRow p s := by
  obtain rfl := mem_prefixSet.mp hp
  rw [step_of_inv h, ahead_of_read h.1 hr, Memory.bytesFrom_eq h.1, hr']
  rfl

/-- A prefix and a byte (R151, R154). -/
theorem step_prefixed {s : State} (h : s.Inv) {p b : Byte} (hr : Memory.read s.img s.pos = some p)
    (hp : p ∈ prefixSet) (hr' : Memory.read s.img (s.pos + 1) = some b) : step s = prefixedRow p b s := by
  obtain rfl := mem_prefixSet.mp hp
  rw [step_of_inv h, ahead_of_read h.1 hr, Memory.bytesFrom_eq h.1, hr']
  rfl

/-- A row's own bytes in place: the base transaction reads them from the image. -/
theorem baseRow_in_place {s : State} (hw : Memory.wf s.img) {f : Byte} {own rest : List Byte}
    (hb : Memory.bytesFrom s.img (s.pos + 1) = own ++ rest) : baseRow f own s = baseRow f [] s := by
  have e : pendingAfter 1 own s = pendingAfter 1 [] s := by
    rw [pendingAfter_of_split hw hb, pendingAfter_of_split hw (own := []) (rest := own ++ rest) (by simpa using hb)]
  simp only [baseRow, e]

/-- A first byte that is no prefix: lookup in the base table (R111, R113). -/
theorem step_base {s : State} (h : s.Inv) {f : Byte} (hr : Memory.read s.img s.pos = some f) (hf : f ∉ prefixSet) :
    step s = baseRow f [] s := by
  rw [step_of_inv h, ahead_of_read h.1 hr, decode_of_not_prefix hf]
  obtain ⟨i, hi, e⟩ | ⟨mk, v, rest', _, hm, hv, e⟩ | ⟨mk, _, hm, hv, e⟩ | ⟨_, _, e⟩ :=
    decodeBase_cases f (Memory.bytesFrom s.img (s.pos + 1)) <;> rw [e]
  · exact exec_of_encode (plainRows_encode _ (plainRows_mem hi)) hf s
  · have hmem : (f, mk) ∈ immRows := by
      obtain ⟨l₁, l₂, hl, _⟩ := List.lookup_eq_some_iff.mp hm
      rw [hl]; simp
    exact (exec_of_encode (immRows_encode v _ hmem) hf s).trans
      (baseRow_in_place h.1 (own := [v]) (rest := rest') hv)
  · rfl
  · rfl

/-- The first byte's own lookup, as the algorithm runs it: what the stream delivers after the opcode is pending. -/
theorem pendingAfter_nil (h : Nat) (s : State) : pendingAfter h [] s = Memory.bytesFrom s.img (s.pos + h) := rfl

/-- The four ways a transaction starts (R111, R112). -/
theorem step_cases {s : State} (h : s.Inv) :
    (s.pos = Memory.len s.img ∧ step s = .next (raiseFailure 0 .streamExhausted s)) ∨
    (∃ p, Memory.read s.img s.pos = some p ∧ p ∈ prefixSet ∧ s.pos + 1 = Memory.len s.img ∧
      step s = danglingRow p s) ∨
    (∃ p b, Memory.read s.img s.pos = some p ∧ p ∈ prefixSet ∧ Memory.read s.img (s.pos + 1) = some b ∧
      step s = prefixedRow p b s) ∨
    (∃ f, Memory.read s.img s.pos = some f ∧ f ∉ prefixSet ∧ step s = baseRow f [] s) := by
  cases hr : Memory.read s.img s.pos with
  | none =>
    have hp : s.pos = Memory.len s.img := Nat.le_antisymm h.2.1 ((Memory.read_eq_none_iff h.1 _).mp hr)
    exact .inl ⟨hp, step_at_end h hp⟩
  | some f =>
    by_cases hf : f ∈ prefixSet
    · cases hr' : Memory.read s.img (s.pos + 1) with
      | none =>
        have hl := (Memory.read_isSome_iff h.1 s.pos).mp (by simp [hr])
        have hl' := (Memory.read_eq_none_iff h.1 (s.pos + 1)).mp hr'
        exact .inr (.inl ⟨f, rfl, hf, Nat.le_antisymm hl hl', step_dangling h hr hf hr'⟩)
      | some b => exact .inr (.inr (.inl ⟨f, b, rfl, hf, rfl, step_prefixed h hr hf hr'⟩))
    · exact .inr (.inr (.inr ⟨f, rfl, hf, step_base h hr hf⟩))

/-- A recipe of an accepted configuration that pulls two bytes finds the order set (R64). -/
theorem order_isSome_of_accepted {s : State} (h : launchRefusal s = none) {b : Byte} {r : Recipe}
    (hr : s.params.baseExt.lookup b = some r ∨ s.params.cbExt.lookup b = some r) (hn : immBytes r = 2) :
    s.params.imm16Order.isSome = true := by
  have hneeds : needsOrder s.params = true := by
    have hmem : (b, r) ∈ s.params.baseExt ++ s.params.cbExt := by
      rcases hr with hr | hr
      · obtain ⟨l₁, l₂, hl, _⟩ := List.lookup_eq_some_iff.mp hr
        rw [hl]; simp
      · obtain ⟨l₁, l₂, hl, _⟩ := List.lookup_eq_some_iff.mp hr
        rw [hl]; simp
    exact List.any_eq_true.mpr ⟨(b, r), hmem, by simp [hn]⟩
  cases ho : s.params.imm16Order with
  | some o => rfl
  | none =>
    exfalso
    unfold launchRefusal at h
    split at h
    · cases h
    · rw [hneeds, ho] at h
      simp at h

/-- `build` has a value on the bytes a base recipe pulls, in an accepted configuration. -/
theorem baseEntry_builds {s : State} (h : launchRefusal s = none) {f : Byte} {r : Recipe}
    (hr : baseEntry s.params f = some r) {imm : List Byte} (hn : imm.length = immBytes r) :
    ∃ i, buildInstr s.params.imm16Order r imm = some i := by
  refine buildInstr_isSome hn fun h2 => ?_
  unfold baseEntry at hr
  split at hr
  · cases hr
  · rcases Option.or_eq_some_iff.mp hr with hs | ⟨_, he⟩
    · obtain ⟨l₁, l₂, hl, _⟩ := List.lookup_eq_some_iff.mp hs
      have hmem : (f, r) ∈ sourcedTable := by rw [hl]; simp
      have : ∀ e ∈ sourcedTable, immBytes e.2 ≠ 2 := by decide
      exact absurd h2 (this _ hmem)
    · exact order_isSome_of_accepted h (.inl he) h2

/-- `build` has a value on the bytes a prefixed recipe pulls, in an accepted configuration. -/
theorem prefixEntry_builds {s : State} (h : launchRefusal s = none) {p b : Byte} {r : Recipe}
    (hr : prefixEntry s.params p b = some r) {imm : List Byte} (hn : imm.length = immBytes r) :
    ∃ i, buildInstr s.params.imm16Order r imm = some i := by
  refine buildInstr_isSome hn fun h2 => ?_
  unfold prefixEntry at hr
  split at hr
  · exact order_isSome_of_accepted h (.inr hr) h2
  · cases hr

end Sys2Proof.Machine
end

