-- ==== Sys2Proof/Tests/Slice0.lean ====
section
/-! SUPPORT. The model's own tests. Expected results come from the worked examples and vectors of 95_test_vectors.md, from
the `encoding` and `result` columns of opcode_table.json, and from hand calculation of a rule. The theorems named
`witness_<Obligation>` show that the hypotheses of that statement can be met together, clause by clause. -/

namespace Sys2Proof.Tests

open Sys2Proof Sys2Proof.Machine

/-- A new session of the reference configuration. -/
abbrev start (bytes : List Byte) : State := State.session Params.reference bytes

/-- A new session with EXT_LD8 loaded. -/
abbrev startExt (bytes : List Byte) : State := State.session profileExtLd8 bytes

/-- A session whose cursor has moved to an index. -/
abbrev at' (p : Params) (bytes : List Byte) (k : Nat) : State := { State.session p bytes with pos := k }

/-- What a caller sees of a next state: the cursor, the count and the outcome. -/
def seen (o : Host.Outcome State Fault Refusal) : Option (Nat × Nat × DecodeOutcome) :=
  match o with
  | .next s => s.ports.map fun p => (s.pos, p.consumed, p.outcome)
  | _ => none

/-- A recipe of format OP_I16 for tests: `Load16(Register(BC), Immediate(w))`. -/
abbrev wideRecipe : Recipe := .opI16 (.load16 (.register .BC) (.immediate .pulled))

/-- Parameters with a two-byte recipe at base byte `0x01` and at prefixed byte `0x11`. -/
abbrev wide (o : Option ByteOrder) : Params :=
  { Params.reference with baseExt := [(0x01#8, wideRecipe)], cbExt := [(0x11#8, wideRecipe)], imm16Order := o }

/-- Parameters with recipes of every length behind the prefix. -/
abbrev cbRows : Params :=
  { Params.reference with
    cbExt := [(0x00#8, .op .nop), (0x40#8, .opI8 (.load8 (.register .C) (.immediate (.pulled 0)))), (0xFF#8, wideRecipe)]
    imm16Order := some .lowFirst }

/-! ## WellFormed: an ill-formed term for each check -/

/-- UNKNOWN_BASE stands for no byte that has another row (opcode_table.json, "priority"). -/
theorem test_wellFormed_refuses :
    (Instr.unknownBase 0x06#8).wellFormed = false ∧ (Instr.unknownBase 0x41#8).wellFormed = false ∧
    (Instr.unknownBase 0x7F#8).wellFormed = false ∧ (Instr.unknownBase 0x3E#8).wellFormed = false ∧
    (Instr.unknownBase 0xCB#8).wellFormed = false := by decide

theorem test_wellFormed_accepts :
    (Instr.unknownBase 0x76#8).wellFormed = true ∧ (Instr.unknownBase 0x00#8).wellFormed = true ∧
    (Instr.unknownBase 0xFF#8).wellFormed = true ∧ (Instr.unknownBase 0x05#8).wellFormed = true ∧
    (Instr.ldBImm 0xCB#8).wellFormed = true ∧ (Instr.unknownCb 0xCB#8).wellFormed = true := by decide

/-- opcode_table.json: 251 values of UNKNOWN_BASE without the 67 first bytes of the profile are 184. -/
theorem test_wellFormed_count :
    ((List.range 256).filter fun k => (Instr.unknownBase (BitVec.ofNat 8 k)).wellFormed).length = 184 := by
  decide +kernel

/-! ## Decoding: the word of every row, from its `encoding` -/

theorem test_decode_sourced :
    decode [0b00000110#8, 0xA5#8, 0x11#8] = .ok (.ldBImm 0xA5#8, [0x11#8]) ∧
    decode [0b00110110#8, 0xA5#8, 0x11#8] = .ok (.ldIndImm 0xA5#8, [0x11#8]) ∧
    decode [0b01111110#8, 0x06#8] = .ok (.ldAInd, [0x06#8]) ∧
    decode [0b01111111#8, 0x06#8] = .ok (.ldAA, [0x06#8]) :=
  ⟨rfl, rfl, rfl, rfl⟩

theorem test_decode_ext_immediate :
    decode [0b00001110#8, 0xA5#8, 0x11#8] = .ok (.ldCImm 0xA5#8, [0x11#8]) ∧
    decode [0b00010110#8, 0xA5#8, 0x11#8] = .ok (.ldDImm 0xA5#8, [0x11#8]) ∧
    decode [0b00011110#8, 0xA5#8, 0x11#8] = .ok (.ldEImm 0xA5#8, [0x11#8]) ∧
    decode [0b00100110#8, 0xA5#8, 0x11#8] = .ok (.ldHImm 0xA5#8, [0x11#8]) ∧
    decode [0b00101110#8, 0xA5#8, 0x11#8] = .ok (.ldLImm 0xA5#8, [0x11#8]) ∧
    decode [0b00111110#8, 0xA5#8, 0x11#8] = .ok (.ldAImm 0xA5#8, [0x11#8]) :=
  ⟨rfl, rfl, rfl, rfl, rfl, rfl⟩

theorem test_decode_ext_to_B :
    decode [0b01000000#8, 0x06#8] = .ok (.ldBB, [0x06#8]) ∧
    decode [0b01000001#8, 0x06#8] = .ok (.ldBC, [0x06#8]) ∧
    decode [0b01000010#8, 0x06#8] = .ok (.ldBD, [0x06#8]) ∧
    decode [0b01000011#8, 0x06#8] = .ok (.ldBE, [0x06#8]) ∧
    decode [0b01000100#8, 0x06#8] = .ok (.ldBH, [0x06#8]) ∧
    decode [0b01000101#8, 0x06#8] = .ok (.ldBL, [0x06#8]) ∧
    decode [0b01000110#8, 0x06#8] = .ok (.ldBInd, [0x06#8]) ∧
    decode [0b01000111#8, 0x06#8] = .ok (.ldBA, [0x06#8]) :=
  ⟨rfl, rfl, rfl, rfl, rfl, rfl, rfl, rfl⟩

theorem test_decode_ext_to_C :
    decode [0b01001000#8, 0x06#8] = .ok (.ldCB, [0x06#8]) ∧
    decode [0b01001001#8, 0x06#8] = .ok (.ldCC, [0x06#8]) ∧
    decode [0b01001010#8, 0x06#8] = .ok (.ldCD, [0x06#8]) ∧
    decode [0b01001011#8, 0x06#8] = .ok (.ldCE, [0x06#8]) ∧
    decode [0b01001100#8, 0x06#8] = .ok (.ldCH, [0x06#8]) ∧
    decode [0b01001101#8, 0x06#8] = .ok (.ldCL, [0x06#8]) ∧
    decode [0b01001110#8, 0x06#8] = .ok (.ldCInd, [0x06#8]) ∧
    decode [0b01001111#8, 0x06#8] = .ok (.ldCA, [0x06#8]) :=
  ⟨rfl, rfl, rfl, rfl, rfl, rfl, rfl, rfl⟩

theorem test_decode_ext_to_D :
    decode [0b01010000#8, 0x06#8] = .ok (.ldDB, [0x06#8]) ∧
    decode [0b01010001#8, 0x06#8] = .ok (.ldDC, [0x06#8]) ∧
    decode [0b01010010#8, 0x06#8] = .ok (.ldDD, [0x06#8]) ∧
    decode [0b01010011#8, 0x06#8] = .ok (.ldDE, [0x06#8]) ∧
    decode [0b01010100#8, 0x06#8] = .ok (.ldDH, [0x06#8]) ∧
    decode [0b01010101#8, 0x06#8] = .ok (.ldDL, [0x06#8]) ∧
    decode [0b01010110#8, 0x06#8] = .ok (.ldDInd, [0x06#8]) ∧
    decode [0b01010111#8, 0x06#8] = .ok (.ldDA, [0x06#8]) :=
  ⟨rfl, rfl, rfl, rfl, rfl, rfl, rfl, rfl⟩

theorem test_decode_ext_to_E :
    decode [0b01011000#8, 0x06#8] = .ok (.ldEB, [0x06#8]) ∧
    decode [0b01011001#8, 0x06#8] = .ok (.ldEC, [0x06#8]) ∧
    decode [0b01011010#8, 0x06#8] = .ok (.ldED, [0x06#8]) ∧
    decode [0b01011011#8, 0x06#8] = .ok (.ldEE, [0x06#8]) ∧
    decode [0b01011100#8, 0x06#8] = .ok (.ldEH, [0x06#8]) ∧
    decode [0b01011101#8, 0x06#8] = .ok (.ldEL, [0x06#8]) ∧
    decode [0b01011110#8, 0x06#8] = .ok (.ldEInd, [0x06#8]) ∧
    decode [0b01011111#8, 0x06#8] = .ok (.ldEA, [0x06#8]) :=
  ⟨rfl, rfl, rfl, rfl, rfl, rfl, rfl, rfl⟩

theorem test_decode_ext_to_H :
    decode [0b01100000#8, 0x06#8] = .ok (.ldHB, [0x06#8]) ∧
    decode [0b01100001#8, 0x06#8] = .ok (.ldHC, [0x06#8]) ∧
    decode [0b01100010#8, 0x06#8] = .ok (.ldHD, [0x06#8]) ∧
    decode [0b01100011#8, 0x06#8] = .ok (.ldHE, [0x06#8]) ∧
    decode [0b01100100#8, 0x06#8] = .ok (.ldHH, [0x06#8]) ∧
    decode [0b01100101#8, 0x06#8] = .ok (.ldHL, [0x06#8]) ∧
    decode [0b01100110#8, 0x06#8] = .ok (.ldHInd, [0x06#8]) ∧
    decode [0b01100111#8, 0x06#8] = .ok (.ldHA, [0x06#8]) :=
  ⟨rfl, rfl, rfl, rfl, rfl, rfl, rfl, rfl⟩

theorem test_decode_ext_to_L :
    decode [0b01101000#8, 0x06#8] = .ok (.ldLB, [0x06#8]) ∧
    decode [0b01101001#8, 0x06#8] = .ok (.ldLC, [0x06#8]) ∧
    decode [0b01101010#8, 0x06#8] = .ok (.ldLD, [0x06#8]) ∧
    decode [0b01101011#8, 0x06#8] = .ok (.ldLE, [0x06#8]) ∧
    decode [0b01101100#8, 0x06#8] = .ok (.ldLH, [0x06#8]) ∧
    decode [0b01101101#8, 0x06#8] = .ok (.ldLL, [0x06#8]) ∧
    decode [0b01101110#8, 0x06#8] = .ok (.ldLInd, [0x06#8]) ∧
    decode [0b01101111#8, 0x06#8] = .ok (.ldLA, [0x06#8]) :=
  ⟨rfl, rfl, rfl, rfl, rfl, rfl, rfl, rfl⟩

theorem test_decode_ext_to_indirect :
    decode [0b01110000#8, 0x06#8] = .ok (.ldIndB, [0x06#8]) ∧
    decode [0b01110001#8, 0x06#8] = .ok (.ldIndC, [0x06#8]) ∧
    decode [0b01110010#8, 0x06#8] = .ok (.ldIndD, [0x06#8]) ∧
    decode [0b01110011#8, 0x06#8] = .ok (.ldIndE, [0x06#8]) ∧
    decode [0b01110100#8, 0x06#8] = .ok (.ldIndH, [0x06#8]) ∧
    decode [0b01110101#8, 0x06#8] = .ok (.ldIndL, [0x06#8]) ∧
    decode [0b01110111#8, 0x06#8] = .ok (.ldIndA, [0x06#8]) :=
  ⟨rfl, rfl, rfl, rfl, rfl, rfl, rfl⟩

theorem test_decode_ext_to_A :
    decode [0b01111000#8, 0x06#8] = .ok (.ldAB, [0x06#8]) ∧
    decode [0b01111001#8, 0x06#8] = .ok (.ldAC, [0x06#8]) ∧
    decode [0b01111010#8, 0x06#8] = .ok (.ldAD, [0x06#8]) ∧
    decode [0b01111011#8, 0x06#8] = .ok (.ldAE, [0x06#8]) ∧
    decode [0b01111100#8, 0x06#8] = .ok (.ldAH, [0x06#8]) ∧
    decode [0b01111101#8, 0x06#8] = .ok (.ldAL, [0x06#8]) :=
  ⟨rfl, rfl, rfl, rfl, rfl, rfl⟩

/-- Rows PREFIX_CB, UNKNOWN_CB and UNKNOWN_BASE; a second `0xCB` is data (V13). -/
theorem test_decode_other :
    decode [0b11001011#8] = .ok (.prefixCb, []) ∧
    decode [0b11001011#8, 0x06#8, 0x02#8] = .ok (.unknownCb 0x06#8, [0x02#8]) ∧
    decode [0b11001011#8, 0b11001011#8] = .ok (.unknownCb 0xCB#8, []) ∧
    decode [0x76#8, 0x00#8] = .ok (.unknownBase 0x76#8, [0x00#8]) ∧
    decode [0x80#8] = .ok (.unknownBase 0x80#8, []) ∧ decode [0xFF#8] = .ok (.unknownBase 0xFF#8, []) :=
  ⟨rfl, rfl, rfl, rfl, rfl, rfl⟩

theorem test_decode_rejects :
    decode [] = .error .exhausted ∧ decode [0x06#8] = .error (.immediateMissing 0x06#8) ∧
    decode [0x3E#8] = .error (.immediateMissing 0x3E#8) := ⟨rfl, rfl, rfl⟩

/-! ## Encoding -/

theorem test_encode :
    encode (.ldBImm 0xCB#8) = [0b00000110#8, 0xCB#8] ∧ encode (.ldIndImm 0xFF#8) = [0b00110110#8, 0xFF#8] ∧
    encode .ldAInd = [0b01111110#8] ∧ encode .ldAA = [0b01111111#8] ∧ encode .prefixCb = [0b11001011#8] ∧
    encode (.unknownCb 0x7F#8) = [0b11001011#8, 0x7F#8] ∧ encode (.unknownBase 0x76#8) = [0x76#8] ∧
    encode (.ldLImm 0x00#8) = [0b00101110#8, 0x00#8] ∧ encode .ldEH = [0b01011100#8] ∧
    encode .ldIndA = [0b01110111#8] := by decide

/-! ## The words of the opcode table, numbered as the table numbers them (log 15), and the step that fetches them -/

theorem test_decodeTableWord :
    decodeTableWord 16 0x06A5 = some (.ldBImm 0xA5#8) ∧ decodeTableWord 16 0xCB12 = some (.unknownCb 0x12#8) ∧
    decodeTableWord 8 0xCB = some .prefixCb ∧ decodeTableWord 8 0x7E = some .ldAInd ∧
    decodeTableWord 8 0x00 = some (.unknownBase 0x00#8) ∧ decodeTableWord 16 0x3E00 = some (.ldAImm 0x00#8) ∧
    decodeTableWord 8 0x06 = some (.ldBImm 0x00#8) :=
  ⟨rfl, rfl, rfl, rfl, rfl, rfl, rfl⟩

theorem test_step_fetchWord :
    seen (step (State.reset.withFetchWord 16 0x06A5)) = some (2, 2, .ok (.load8 (.register .B) (.immediate 0xA5#8))) ∧
    seen (step (State.reset.withFetchWord 8 0x7F)) = some (1, 1, .ok (.load8 (.register .A) (.register .A))) ∧
    seen (step (State.reset.withFetchWord 8 0xCB)) =
      some (1, 1, .fail (.truncatedOperand { pfx := none, opcode := 0xCB#8 } 1 0)) ∧
    seen (step (State.reset.withFetchWord 16 0xCB12)) = some (2, 2, .fail (.unknownPrefixedOpcode 0xCB#8 0x12#8)) ∧
    seen (step (State.reset.withFetchWord 8 0x41)) = some (1, 1, .fail (.unknownBaseOpcode 0x41#8)) := by decide

/-- A word placed at a cursor inside an image replaces what was there and after it. -/
theorem test_step_fetchWord_inside :
    seen (step ((at' Params.reference [0x7E#8, 0x7F#8, 0x7F#8] 1).withFetchWord 16 0x36FF)) =
      some (3, 2, .ok (.load8 (.indirect .HL) (.immediate 0xFF#8))) := by decide

/-! ## The step: worked examples S1 to S6 and vectors of section 2 of 95_test_vectors.md -/

/-- S1 to S6. -/
theorem test_step_scenarios :
    seen (step (start [0x06#8, 0x02#8])) = some (2, 2, .ok (.load8 (.register .B) (.immediate 0x02#8))) ∧
    seen (step (start [0x7E#8])) = some (1, 1, .ok (.load8 (.register .A) (.indirect .HL))) ∧
    seen (step (start [0x36#8, 0xFF#8])) = some (2, 2, .ok (.load8 (.indirect .HL) (.immediate 0xFF#8))) ∧
    seen (step (start [0x7F#8])) = some (1, 1, .ok (.load8 (.register .A) (.register .A))) ∧
    seen (step (start [0xCB#8])) = some (1, 1, .fail (.truncatedOperand { pfx := none, opcode := 0xCB#8 } 1 0)) ∧
    seen (step (start [])) = some (0, 0, .fail .streamExhausted) := by decide

/-- V1 to V5. -/
theorem test_step_ldBImm :
    seen (step (start [0x06#8, 0x00#8])) = some (2, 2, .ok (.load8 (.register .B) (.immediate 0x00#8))) ∧
    seen (step (start [0x06#8, 0xFF#8])) = some (2, 2, .ok (.load8 (.register .B) (.immediate 0xFF#8))) ∧
    seen (step (start [0x06#8, 0xCB#8])) = some (2, 2, .ok (.load8 (.register .B) (.immediate 0xCB#8))) ∧
    seen (step (start [0x06#8, 0x06#8])) = some (2, 2, .ok (.load8 (.register .B) (.immediate 0x06#8))) ∧
    seen (step (start [0x06#8])) =
    some (1, 1, .fail (.truncatedOperand { pfx := none, opcode := 0x06#8 } 1 0)) := by decide

/-- V6, V7. -/
theorem test_step_ldIndImm :
    seen (step (start [0x36#8, 0x00#8])) = some (2, 2, .ok (.load8 (.indirect .HL) (.immediate 0x00#8))) ∧
    seen (step (start [0x36#8])) =
    some (1, 1, .fail (.truncatedOperand { pfx := none, opcode := 0x36#8 } 1 0)) := by decide

/-- V8 to V10. -/
theorem test_step_plain_loads :
    seen (step (start [0x7E#8, 0x99#8])) = some (1, 1, .ok (.load8 (.register .A) (.indirect .HL))) ∧
    seen (step (start [0x7F#8, 0xCB#8])) = some (1, 1, .ok (.load8 (.register .A) (.register .A))) ∧
    seen (step (at' Params.reference [0x06#8, 0x7E#8] 1)) =
    some (2, 1, .ok (.load8 (.register .A) (.indirect .HL))) := by decide

/-- V11 to V15. -/
theorem test_step_unknownCb :
    seen (step (start [0xCB#8, 0x00#8])) = some (2, 2, .fail (.unknownPrefixedOpcode 0xCB#8 0x00#8)) ∧
    seen (step (start [0xCB#8, 0xFF#8])) = some (2, 2, .fail (.unknownPrefixedOpcode 0xCB#8 0xFF#8)) ∧
    seen (step (start [0xCB#8, 0xCB#8])) = some (2, 2, .fail (.unknownPrefixedOpcode 0xCB#8 0xCB#8)) ∧
    seen (step (start [0xCB#8, 0x7F#8])) = some (2, 2, .fail (.unknownPrefixedOpcode 0xCB#8 0x7F#8)) ∧
    seen (step (start [0xCB#8, 0x06#8, 0x02#8])) =
    some (2, 2, .fail (.unknownPrefixedOpcode 0xCB#8 0x06#8)) := by decide

/-- V17 to V20, V23 and two neighbours of V21. -/
theorem test_step_unknownBase :
    seen (step (start [0x00#8])) = some (1, 1, .fail (.unknownBaseOpcode 0x00#8)) ∧
    seen (step (start [0xFF#8])) = some (1, 1, .fail (.unknownBaseOpcode 0xFF#8)) ∧
    seen (step (start [0x76#8])) = some (1, 1, .fail (.unknownBaseOpcode 0x76#8)) ∧
    seen (step (start [0x00#8, 0x06#8])) = some (1, 1, .fail (.unknownBaseOpcode 0x00#8)) ∧
    seen (step (start [0x3E#8])) = some (1, 1, .fail (.unknownBaseOpcode 0x3E#8)) ∧
    seen (step (start [0xCA#8])) = some (1, 1, .fail (.unknownBaseOpcode 0xCA#8)) ∧
    seen (step (start [0xCC#8])) = some (1, 1, .fail (.unknownBaseOpcode 0xCC#8)) := by decide

/-- V27 to V31 with the profile loaded, and its truncation. -/
theorem test_step_extLd8 :
    seen (step (startExt [0x41#8])) = some (1, 1, .ok (.load8 (.register .B) (.register .C))) ∧
    seen (step (startExt [0x3E#8, 0x7F#8])) = some (2, 2, .ok (.load8 (.register .A) (.immediate 0x7F#8))) ∧
    seen (step (startExt [0x0E#8, 0xCB#8])) = some (2, 2, .ok (.load8 (.register .C) (.immediate 0xCB#8))) ∧
    seen (step (startExt [0x70#8])) = some (1, 1, .ok (.load8 (.indirect .HL) (.register .B))) ∧
    seen (step (startExt [0x76#8])) = some (1, 1, .fail (.unknownBaseOpcode 0x76#8)) ∧
    seen (step (startExt [0x0E#8])) =
    some (1, 1, .fail (.truncatedOperand { pfx := none, opcode := 0x0E#8 } 1 0)) := by decide

/-- V27 to V30 in the reference configuration. -/
theorem test_step_extLd8_absent :
    seen (step (start [0x41#8])) = some (1, 1, .fail (.unknownBaseOpcode 0x41#8)) ∧
    seen (step (start [0x3E#8, 0x7F#8])) = some (1, 1, .fail (.unknownBaseOpcode 0x3E#8)) ∧
    seen (step (start [0x0E#8, 0xCB#8])) = some (1, 1, .fail (.unknownBaseOpcode 0x0E#8)) ∧
    seen (step (start [0x70#8])) = some (1, 1, .fail (.unknownBaseOpcode 0x70#8)) := by decide

/-- V32. -/
theorem test_step_extLd8_sourced :
    seen (step (startExt [0x06#8, 0x02#8])) = some (2, 2, .ok (.load8 (.register .B) (.immediate 0x02#8))) ∧
    seen (step (startExt [0x36#8, 0xFF#8])) = some (2, 2, .ok (.load8 (.indirect .HL) (.immediate 0xFF#8))) ∧
    seen (step (startExt [0x7E#8])) = some (1, 1, .ok (.load8 (.register .A) (.indirect .HL))) ∧
    seen (step (startExt [0x7F#8])) = some (1, 1, .ok (.load8 (.register .A) (.register .A))) := by decide

/-! ### The `result` of every row of the profile -/

theorem test_exec_ext_immediate :
    seen (exec (.ldCImm 0xA5#8) (startExt [])) = some (2, 2, .ok (.load8 (.register .C) (.immediate 0xA5#8))) ∧
    seen (exec (.ldDImm 0xA5#8) (startExt [])) = some (2, 2, .ok (.load8 (.register .D) (.immediate 0xA5#8))) ∧
    seen (exec (.ldEImm 0xA5#8) (startExt [])) = some (2, 2, .ok (.load8 (.register .E) (.immediate 0xA5#8))) ∧
    seen (exec (.ldHImm 0xA5#8) (startExt [])) = some (2, 2, .ok (.load8 (.register .H) (.immediate 0xA5#8))) ∧
    seen (exec (.ldLImm 0xA5#8) (startExt [])) = some (2, 2, .ok (.load8 (.register .L) (.immediate 0xA5#8))) ∧
    seen (exec (.ldAImm 0xA5#8) (startExt [])) =
    some (2, 2, .ok (.load8 (.register .A) (.immediate 0xA5#8))) := by decide

theorem test_exec_ext_to_B :
    seen (exec .ldBB (startExt [])) = some (1, 1, .ok (.load8 (.register .B) (.register .B))) ∧
    seen (exec .ldBC (startExt [])) = some (1, 1, .ok (.load8 (.register .B) (.register .C))) ∧
    seen (exec .ldBD (startExt [])) = some (1, 1, .ok (.load8 (.register .B) (.register .D))) ∧
    seen (exec .ldBE (startExt [])) = some (1, 1, .ok (.load8 (.register .B) (.register .E))) ∧
    seen (exec .ldBH (startExt [])) = some (1, 1, .ok (.load8 (.register .B) (.register .H))) ∧
    seen (exec .ldBL (startExt [])) = some (1, 1, .ok (.load8 (.register .B) (.register .L))) ∧
    seen (exec .ldBInd (startExt [])) = some (1, 1, .ok (.load8 (.register .B) (.indirect .HL))) ∧
    seen (exec .ldBA (startExt [])) = some (1, 1, .ok (.load8 (.register .B) (.register .A))) := by decide

theorem test_exec_ext_to_C :
    seen (exec .ldCB (startExt [])) = some (1, 1, .ok (.load8 (.register .C) (.register .B))) ∧
    seen (exec .ldCC (startExt [])) = some (1, 1, .ok (.load8 (.register .C) (.register .C))) ∧
    seen (exec .ldCD (startExt [])) = some (1, 1, .ok (.load8 (.register .C) (.register .D))) ∧
    seen (exec .ldCE (startExt [])) = some (1, 1, .ok (.load8 (.register .C) (.register .E))) ∧
    seen (exec .ldCH (startExt [])) = some (1, 1, .ok (.load8 (.register .C) (.register .H))) ∧
    seen (exec .ldCL (startExt [])) = some (1, 1, .ok (.load8 (.register .C) (.register .L))) ∧
    seen (exec .ldCInd (startExt [])) = some (1, 1, .ok (.load8 (.register .C) (.indirect .HL))) ∧
    seen (exec .ldCA (startExt [])) = some (1, 1, .ok (.load8 (.register .C) (.register .A))) := by decide

theorem test_exec_ext_to_D :
    seen (exec .ldDB (startExt [])) = some (1, 1, .ok (.load8 (.register .D) (.register .B))) ∧
    seen (exec .ldDC (startExt [])) = some (1, 1, .ok (.load8 (.register .D) (.register .C))) ∧
    seen (exec .ldDD (startExt [])) = some (1, 1, .ok (.load8 (.register .D) (.register .D))) ∧
    seen (exec .ldDE (startExt [])) = some (1, 1, .ok (.load8 (.register .D) (.register .E))) ∧
    seen (exec .ldDH (startExt [])) = some (1, 1, .ok (.load8 (.register .D) (.register .H))) ∧
    seen (exec .ldDL (startExt [])) = some (1, 1, .ok (.load8 (.register .D) (.register .L))) ∧
    seen (exec .ldDInd (startExt [])) = some (1, 1, .ok (.load8 (.register .D) (.indirect .HL))) ∧
    seen (exec .ldDA (startExt [])) = some (1, 1, .ok (.load8 (.register .D) (.register .A))) := by decide

theorem test_exec_ext_to_E :
    seen (exec .ldEB (startExt [])) = some (1, 1, .ok (.load8 (.register .E) (.register .B))) ∧
    seen (exec .ldEC (startExt [])) = some (1, 1, .ok (.load8 (.register .E) (.register .C))) ∧
    seen (exec .ldED (startExt [])) = some (1, 1, .ok (.load8 (.register .E) (.register .D))) ∧
    seen (exec .ldEE (startExt [])) = some (1, 1, .ok (.load8 (.register .E) (.register .E))) ∧
    seen (exec .ldEH (startExt [])) = some (1, 1, .ok (.load8 (.register .E) (.register .H))) ∧
    seen (exec .ldEL (startExt [])) = some (1, 1, .ok (.load8 (.register .E) (.register .L))) ∧
    seen (exec .ldEInd (startExt [])) = some (1, 1, .ok (.load8 (.register .E) (.indirect .HL))) ∧
    seen (exec .ldEA (startExt [])) = some (1, 1, .ok (.load8 (.register .E) (.register .A))) := by decide

theorem test_exec_ext_to_H :
    seen (exec .ldHB (startExt [])) = some (1, 1, .ok (.load8 (.register .H) (.register .B))) ∧
    seen (exec .ldHC (startExt [])) = some (1, 1, .ok (.load8 (.register .H) (.register .C))) ∧
    seen (exec .ldHD (startExt [])) = some (1, 1, .ok (.load8 (.register .H) (.register .D))) ∧
    seen (exec .ldHE (startExt [])) = some (1, 1, .ok (.load8 (.register .H) (.register .E))) ∧
    seen (exec .ldHH (startExt [])) = some (1, 1, .ok (.load8 (.register .H) (.register .H))) ∧
    seen (exec .ldHL (startExt [])) = some (1, 1, .ok (.load8 (.register .H) (.register .L))) ∧
    seen (exec .ldHInd (startExt [])) = some (1, 1, .ok (.load8 (.register .H) (.indirect .HL))) ∧
    seen (exec .ldHA (startExt [])) = some (1, 1, .ok (.load8 (.register .H) (.register .A))) := by decide

theorem test_exec_ext_to_L :
    seen (exec .ldLB (startExt [])) = some (1, 1, .ok (.load8 (.register .L) (.register .B))) ∧
    seen (exec .ldLC (startExt [])) = some (1, 1, .ok (.load8 (.register .L) (.register .C))) ∧
    seen (exec .ldLD (startExt [])) = some (1, 1, .ok (.load8 (.register .L) (.register .D))) ∧
    seen (exec .ldLE (startExt [])) = some (1, 1, .ok (.load8 (.register .L) (.register .E))) ∧
    seen (exec .ldLH (startExt [])) = some (1, 1, .ok (.load8 (.register .L) (.register .H))) ∧
    seen (exec .ldLL (startExt [])) = some (1, 1, .ok (.load8 (.register .L) (.register .L))) ∧
    seen (exec .ldLInd (startExt [])) = some (1, 1, .ok (.load8 (.register .L) (.indirect .HL))) ∧
    seen (exec .ldLA (startExt [])) = some (1, 1, .ok (.load8 (.register .L) (.register .A))) := by decide

theorem test_exec_ext_to_indirect :
    seen (exec .ldIndB (startExt [])) = some (1, 1, .ok (.load8 (.indirect .HL) (.register .B))) ∧
    seen (exec .ldIndC (startExt [])) = some (1, 1, .ok (.load8 (.indirect .HL) (.register .C))) ∧
    seen (exec .ldIndD (startExt [])) = some (1, 1, .ok (.load8 (.indirect .HL) (.register .D))) ∧
    seen (exec .ldIndE (startExt [])) = some (1, 1, .ok (.load8 (.indirect .HL) (.register .E))) ∧
    seen (exec .ldIndH (startExt [])) = some (1, 1, .ok (.load8 (.indirect .HL) (.register .H))) ∧
    seen (exec .ldIndL (startExt [])) = some (1, 1, .ok (.load8 (.indirect .HL) (.register .L))) ∧
    seen (exec .ldIndA (startExt [])) = some (1, 1, .ok (.load8 (.indirect .HL) (.register .A))) := by decide

theorem test_exec_ext_to_A :
    seen (exec .ldAB (startExt [])) = some (1, 1, .ok (.load8 (.register .A) (.register .B))) ∧
    seen (exec .ldAC (startExt [])) = some (1, 1, .ok (.load8 (.register .A) (.register .C))) ∧
    seen (exec .ldAD (startExt [])) = some (1, 1, .ok (.load8 (.register .A) (.register .D))) ∧
    seen (exec .ldAE (startExt [])) = some (1, 1, .ok (.load8 (.register .A) (.register .E))) ∧
    seen (exec .ldAH (startExt [])) = some (1, 1, .ok (.load8 (.register .A) (.register .H))) ∧
    seen (exec .ldAL (startExt [])) = some (1, 1, .ok (.load8 (.register .A) (.register .L))) := by decide

/-! ### Two-byte immediates and recipes behind the prefix (R64, R154; values by hand: 0x34 + 256 * 0x12 = 0x1234) -/

theorem test_step_imm16_lowFirst :
    seen (step (State.session (wide (some .lowFirst)) [0x01#8, 0x34#8, 0x12#8])) =
      some (3, 3, .ok (.load16 (.register .BC) (.immediate 0x1234#16))) := by decide

theorem test_step_imm16_highFirst :
    seen (step (State.session (wide (some .highFirst)) [0x01#8, 0x34#8, 0x12#8])) =
      some (3, 3, .ok (.load16 (.register .BC) (.immediate 0x3412#16))) := by decide

/-- One of two immediate bytes is there: it stays consumed and is counted (R194). -/
theorem test_step_truncated_after_one :
    seen (step (State.session (wide (some .lowFirst)) [0x01#8, 0x34#8])) =
      some (2, 2, .fail (.truncatedOperand { pfx := none, opcode := 0x01#8 } 2 1)) ∧
    seen (step (State.session (wide (some .lowFirst)) [0x01#8])) =
      some (1, 1, .fail (.truncatedOperand { pfx := none, opcode := 0x01#8 } 2 0)) := by decide

theorem test_step_prefixed_recipes :
    seen (step (State.session cbRows [0xCB#8, 0x00#8])) = some (2, 2, .ok .nop) ∧
    seen (step (State.session cbRows [0xCB#8, 0x40#8, 0x99#8])) =
      some (3, 3, .ok (.load8 (.register .C) (.immediate 0x99#8))) ∧
    seen (step (State.session cbRows [0xCB#8, 0xFF#8, 0x34#8, 0x12#8])) =
      some (4, 4, .ok (.load16 (.register .BC) (.immediate 0x1234#16))) ∧
    seen (step (State.session cbRows [0xCB#8, 0xFF#8, 0x34#8])) =
      some (3, 3, .fail (.truncatedOperand { pfx := some 0xCB#8, opcode := 0xFF#8 } 2 1)) ∧
    seen (step (State.session cbRows [0xCB#8, 0x01#8])) = some (2, 2, .fail (.unknownPrefixedOpcode 0xCB#8 0x01#8)) ∧
    maxLen cbRows = 4 := by decide

/-! ## What stops the step -/

theorem test_step_refuses_unset_order :
    step (State.session (wide none) [0x7F#8]) = .refused .imm16OrderUnset := rfl

/-- `LEN < 2^POS_BITS` (R12): with two bits, three bytes run and four do not. -/
theorem test_step_posBits :
    seen (step (State.session { Params.reference with posBits := some 2 } [0x7F#8, 0x00#8, 0x00#8])) =
      some (1, 1, .ok (.load8 (.register .A) (.register .A))) ∧
    launchRefusal (State.session { Params.reference with posBits := some 2 } [0x7F#8, 0x00#8, 0x00#8, 0x00#8]) =
      some .imageTooLong := by decide

/-- R65 (a): no extension entry at a sourced opcode or a prefix, and no byte twice. -/
theorem test_launch_malformed :
    launchRefusal (State.session { Params.reference with baseExt := [(0x7F#8, .op .nop)] } []) =
    some .extensionMalformed ∧
    launchRefusal (State.session { Params.reference with baseExt := [(0xCB#8, .op .nop)] } []) =
    some .extensionMalformed ∧
    launchRefusal (State.session { Params.reference with cbExt := [(0x01#8, .op .nop), (0x01#8, .op .nop)] } []) =
      some .extensionMalformed ∧
    launchRefusal (State.session { Params.reference with cbExt := [(0x7F#8, .op .nop), (0xCB#8, .op .nop)] } []) =
    none := by
  decide

theorem test_step_faults_outside : step (at' Params.reference [0x7F#8] 2) = .fault .cursorOutsideImage := rfl

/-! ## The stream (section 2.1), one operation after the other on `[0x7E, 0x06]` -/

theorem test_stream_peek :
    peek (start [0x7E#8, 0x06#8]) = .byte 0x7E#8 ∧ peek (at' Params.reference [0x7E#8, 0x06#8] 1) = .byte 0x06#8 ∧
    peek (at' Params.reference [0x7E#8, 0x06#8] 2) = .exhausted ∧ peek (start []) = .exhausted := by decide

theorem test_stream_next :
    next (start [0x7E#8, 0x06#8]) = (.byte 0x7E#8, at' Params.reference [0x7E#8, 0x06#8] 1) ∧
    next (at' Params.reference [0x7E#8, 0x06#8] 1) = (.byte 0x06#8, at' Params.reference [0x7E#8, 0x06#8] 2) ∧
    next (at' Params.reference [0x7E#8, 0x06#8] 2) =
    (.exhausted, at' Params.reference [0x7E#8, 0x06#8] 2) := by decide

/-! ## Walks: programs P1 and P4 (counts of consumed bytes), P6 in both configurations -/

theorem test_walk_programs :
    (walkAll (start [0x06#8, 0x02#8, 0x7E#8, 0x36#8, 0xFF#8, 0x7F#8])).map Ports.consumed = [2, 1, 2, 1] ∧
    cleanWalk (start [0x06#8, 0x02#8, 0x7E#8, 0x36#8, 0xFF#8, 0x7F#8]) = true ∧
    (walkAll (start [0x7E#8, 0xCB#8, 0x7F#8, 0x7F#8])).map Ports.consumed = [1, 2, 1] ∧
    cleanWalk (start [0x7E#8, 0xCB#8, 0x7F#8, 0x7F#8]) = false ∧
    (walkAll (start [0x3E#8, 0x7F#8])).map Ports.consumed = [1, 1] ∧
    (walkAll (startExt [0x3E#8, 0x7F#8])).map Ports.consumed = [2] := by decide

/-! ## The algorithm as the spec writes it, and its stream operations (R120) -/

theorem test_decodeOne :
    seen (decodeOne (start [0xCB#8, 0x7F#8])) = some (2, 2, .fail (.unknownPrefixedOpcode 0xCB#8 0x7F#8)) ∧
    seen (decodeOne (start [0x06#8])) = some (1, 1, .fail (.truncatedOperand { pfx := none, opcode := 0x06#8 } 1 0)) ∧
    streamOps (start []) = 1 ∧ streamOps (start [0x7E#8]) = 2 ∧ streamOps (start [0x06#8, 0x00#8]) = 3 ∧
    streamOps (start [0xCB#8]) = 3 := by decide

/-! ## Operand forms and ports, by hand calculation -/

theorem test_partialAddress :
    partialAddress (fun _ => 0x34#8) (.immediate 0xFF#8) (.register .C) = 0xFF34#16 ∧
    partialAddress (fun _ => 0x80#8) (.register .B) (.immediate 0x01#8) = 0x8001#16 := by decide

theorem test_codes :
    (codeDst 0b110#3 : Writable8) = .indirect .HL ∧ (codeDst 0b111#3 : Writable8) = .register .A ∧
    (codeSrc 0b001#3 : Readable8) = .register .C ∧ (codeSrc 0b000#3 : Readable8) = .register .B := by decide

theorem test_flagEffects :
    flagEffects (.load8 (.register .A) (.register .A) : Instruction) = none ∧
    flagEffects (.inc8 (.register .A) { flagsUntouched with zero := .deferred } : Instruction) =
      some { flagsUntouched with zero := .deferred } ∧
    effectOn { flagsUntouched with zero := .deferred } .zero = .deferred ∧
    effectOn flagsUntouched .carry = .unchanged := by decide

/-! ## Witnesses: the hypotheses of each statement, met together -/

/-- The cursor at the start, inside and at the end of an image, and an empty image. -/
theorem witness_StepCompletesAndKeepsInvariant :
    (start [0x06#8, 0x02#8]).Inv ∧
    (at' Params.reference [0x06#8, 0x02#8] 1).Inv ∧
    (at' Params.reference [0x06#8, 0x02#8] 2).Inv ∧ (startExt []).Inv :=
  by decide

theorem witness_StepAgreesWithDecodeOne :
    (start [0x06#8, 0x02#8]).Inv ∧
    (at' Params.reference [0x06#8, 0x02#8] 1).Inv ∧
    (at' Params.reference [0x06#8, 0x02#8] 2).Inv ∧ (startExt []).Inv :=
  witness_StepCompletesAndKeepsInvariant

theorem witness_CallerNextKeepsInvariant :
    (start [0x06#8, 0x02#8]).Inv ∧
    (at' Params.reference [0x06#8, 0x02#8] 1).Inv ∧
    (at' Params.reference [0x06#8, 0x02#8] 2).Inv ∧ (startExt []).Inv :=
  witness_StepCompletesAndKeepsInvariant

theorem witness_WalkReachesTheEnd :
    (start [0x06#8, 0x02#8]).Inv ∧
    (at' Params.reference [0x06#8, 0x02#8] 1).Inv ∧
    (at' Params.reference [0x06#8, 0x02#8] 2).Inv ∧ (startExt []).Inv :=
  witness_StepCompletesAndKeepsInvariant

theorem witness_WalkConsumesEveryByteOnce :
    (start [0x06#8, 0x02#8]).Inv ∧
    (at' Params.reference [0x06#8, 0x02#8] 1).Inv ∧
    (at' Params.reference [0x06#8, 0x02#8] 2).Inv ∧ (startExt []).Inv :=
  witness_StepCompletesAndKeepsInvariant

/-- With a cursor width, at the longest image it admits. -/
theorem witness_NewSessionMeetsInvariant :
    launchRefusal (State.session { profileExtLd8 with posBits := some 1 } [0x41#8]) = none ∧
    launchRefusal (State.session (wide (some .highFirst)) []) = none :=
  by decide

theorem witness_StepRunsDecodedInstruction :
    (start [0x06#8, 0x02#8, 0x7F#8]).Inv ∧
    decode (start [0x06#8, 0x02#8, 0x7F#8]).ahead = .ok (.ldBImm 0x02#8, [0x7F#8]) :=
  ⟨by decide, rfl⟩

/-- First clause: the cursor beyond the end, and cells that are no image. -/
theorem witness_LaunchPremisesAreChecked_outside :
    ¬ inImage (at' Params.reference [0x7F#8] 2) ∧ ¬ inImage { start [] with img := [(1, 0x7F#8)] } :=
  by decide

/-- Second clause. -/
theorem witness_LaunchPremisesAreChecked_extension :
    inImage (State.session { Params.reference with baseExt := [(0x7F#8, .op .nop)] } []) ∧
    (keysRise [(0x7F#8, Recipe.op .nop)] && keysRise [] && avoidsSourced [(0x7F#8, Recipe.op .nop)]) = false :=
  by decide

/-- Third clause. -/
theorem witness_LaunchPremisesAreChecked_order :
    inImage (State.session (wide none) []) ∧
    (keysRise (wide none).baseExt && keysRise (wide none).cbExt && avoidsSourced (wide none).baseExt) = true ∧
    needsOrder (wide none) = true ∧ (wide none).imm16Order = none :=
  by decide

/-- Fourth clause, at the shortest image it refuses. -/
theorem witness_LaunchPremisesAreChecked_image :
    inImage (State.session { Params.reference with posBits := some 1 } [0x7F#8, 0x7F#8]) ∧
    (keysRise ([] : TableExt) && keysRise ([] : TableExt) && avoidsSourced []) = true ∧
    (needsOrder { Params.reference with posBits := some 1 } && (none : Option ByteOrder).isNone) = false ∧
    2 ^ 1 ≤ Memory.len (Memory.ofBytes [0x7F#8, 0x7F#8]) :=
  by decide

/-- Both clauses: the last byte, and the end. -/
theorem witness_PeekReturnsNextByteOrExhausted :
    (at' Params.reference [0x06#8, 0x7E#8] 1).Inv ∧ 1 < Memory.len (at' Params.reference [0x06#8, 0x7E#8] 1).img ∧
    (at' Params.reference [0x06#8, 0x7E#8] 2).Inv ∧ ¬ 2 < Memory.len (at' Params.reference [0x06#8, 0x7E#8] 2).img :=
  by decide

/-- Both clauses: the last byte, and the end. -/
theorem witness_NextConsumesExactlyOneByte :
    (at' Params.reference [0x06#8, 0x7E#8] 1).Inv ∧ 1 < Memory.len (at' Params.reference [0x06#8, 0x7E#8] 1).img ∧
    (at' Params.reference [0x06#8, 0x7E#8] 2).Inv ∧ ¬ 2 < Memory.len (at' Params.reference [0x06#8, 0x7E#8] 2).img :=
  by decide

theorem witness_PeekThenNextAgree :
    (at' Params.reference [0x06#8, 0x7E#8] 1).Inv ∧ peek (at' Params.reference [0x06#8, 0x7E#8] 1) = .byte 0x7E#8 :=
  by decide

theorem witness_StreamExhaustedExactlyAtTheEnd :
    (at' Params.reference [0x06#8, 0x7E#8] 2).Inv ∧
    (at' Params.reference [0x06#8, 0x7E#8] 2).pos = Memory.len (at' Params.reference [0x06#8, 0x7E#8] 2).img ∧
    (start []).Inv ∧ (start []).pos = Memory.len (start []).img :=
  by decide

theorem witness_ExhaustionPersists :
    (at' Params.reference [0x06#8, 0x7E#8] 2).Inv ∧
    (at' Params.reference [0x06#8, 0x7E#8] 2).pos = Memory.len (at' Params.reference [0x06#8, 0x7E#8] 2).img :=
  by decide

theorem witness_UnknownBaseByteConsumesOneByte :
    (start [0x00#8]).Inv ∧ Memory.read (start [0x00#8]).img 0 = some 0x00#8 ∧ 0x00#8 ∉ prefixSet ∧
    baseEntry Params.reference 0x00#8 = none ∧
    (startExt [0x76#8]).Inv ∧ Memory.read (startExt [0x76#8]).img 0 = some 0x76#8 ∧
    baseEntry profileExtLd8 0x76#8 = none :=
  by decide

theorem witness_UnknownPrefixedByteConsumesTwoBytes :
    (start [0xCB#8, 0xFF#8]).Inv ∧ Memory.read (start [0xCB#8, 0xFF#8]).img 0 = some 0xCB#8 ∧ 0xCB#8 ∈ prefixSet ∧
    Memory.read (start [0xCB#8, 0xFF#8]).img 1 = some 0xFF#8 ∧ prefixEntry Params.reference 0xCB#8 0xFF#8 = none ∧
    (State.session cbRows [0xCB#8, 0x01#8]).Inv ∧ prefixEntry cbRows 0xCB#8 0x01#8 = none :=
  by decide

theorem witness_DanglingPrefixIsTruncated :
    (at' Params.reference [0x7F#8, 0xCB#8] 1).Inv ∧
    Memory.read (at' Params.reference [0x7F#8, 0xCB#8] 1).img 1 = some 0xCB#8 ∧
    (at' Params.reference [0x7F#8, 0xCB#8] 1).pos + 1 = Memory.len (at' Params.reference [0x7F#8, 0xCB#8] 1).img :=
  by decide

/-- Both clauses: the immediate is the last byte, and it is missing. -/
theorem witness_LoadBImmediate :
    (start [0x06#8, 0xFF#8]).Inv ∧ Memory.read (start [0x06#8, 0xFF#8]).img 0 = some 0x06#8 ∧
    Memory.read (start [0x06#8, 0xFF#8]).img 1 = some 0xFF#8 ∧
    (start [0x06#8]).Inv ∧ Memory.read (start [0x06#8]).img 0 = some 0x06#8 ∧
    0 + 1 = Memory.len (start [0x06#8]).img :=
  by decide

/-- Both clauses: the immediate is the last byte, and it is missing. -/
theorem witness_LoadIndirectImmediate :
    (start [0x36#8, 0xFF#8]).Inv ∧ Memory.read (start [0x36#8, 0xFF#8]).img 0 = some 0x36#8 ∧
    Memory.read (start [0x36#8, 0xFF#8]).img 1 = some 0xFF#8 ∧
    (start [0x36#8]).Inv ∧ Memory.read (start [0x36#8]).img 0 = some 0x36#8 ∧
    0 + 1 = Memory.len (start [0x36#8]).img :=
  by decide

theorem witness_LoadAFromIndirect :
    (start [0x7E#8]).Inv ∧ Memory.read (start [0x7E#8]).img 0 = some 0x7E#8 :=
  by decide

theorem witness_LoadAFromA :
    (start [0x7F#8]).Inv ∧ Memory.read (start [0x7F#8]).img 0 = some 0x7F#8 :=
  by decide

/-- A base recipe and a recipe behind the prefix. -/
theorem witness_SuccessConsumesItsLength :
    (start [0x06#8, 0x02#8]).Inv ∧
    step (start [0x06#8, 0x02#8]) =
    .next (after (start [0x06#8, 0x02#8]) 2 (.ok (.load8 (.register .B) (.immediate 0x02#8)))) ∧
    (State.session cbRows [0xCB#8, 0x00#8]).Inv ∧
    step (State.session cbRows [0xCB#8, 0x00#8]) =
    .next (after (State.session cbRows [0xCB#8, 0x00#8]) 2 (.ok .nop)) :=
  ⟨by decide, rfl, by decide, rfl⟩

/-- First clause at exactly the bytes required. -/
theorem witness_TruncationConsumesWhatIsThere_enough :
    (State.session (wide (some .lowFirst)) [0x01#8, 0x34#8, 0x12#8]).Inv ∧
    Memory.read (State.session (wide (some .lowFirst)) [0x01#8, 0x34#8, 0x12#8]).img 0 = some 0x01#8 ∧
    0x01#8 ∉ prefixSet ∧
    baseEntry (wide (some .lowFirst)) 0x01#8 = some wideRecipe ∧
    immBytes wideRecipe ≤ Memory.len (State.session (wide (some .lowFirst)) [0x01#8, 0x34#8, 0x12#8]).img - (0 + 1) :=
  by decide

/-- Second clause, one byte short. -/
theorem witness_TruncationConsumesWhatIsThere_short :
    (State.session (wide (some .lowFirst)) [0x01#8, 0x34#8]).Inv ∧
    Memory.read (State.session (wide (some .lowFirst)) [0x01#8, 0x34#8]).img 0 = some 0x01#8 ∧ 0x01#8 ∉ prefixSet ∧
    baseEntry (wide (some .lowFirst)) 0x01#8 = some wideRecipe ∧
    Memory.len (State.session (wide (some .lowFirst)) [0x01#8, 0x34#8]).img - (0 + 1) < immBytes wideRecipe :=
  by decide

/-- First case at exactly the bytes required. -/
theorem witness_PrefixedRecipeIsConstructed_enough :
    (State.session cbRows [0xCB#8, 0xFF#8, 0x34#8, 0x12#8]).Inv ∧
    Memory.read (State.session cbRows [0xCB#8, 0xFF#8, 0x34#8, 0x12#8]).img 0 = some 0xCB#8 ∧
    Memory.read (State.session cbRows [0xCB#8, 0xFF#8, 0x34#8, 0x12#8]).img 1 = some 0xFF#8 ∧
    cbRows.cbExt.lookup 0xFF#8 = some wideRecipe ∧
    immBytes wideRecipe ≤ Memory.len (State.session cbRows [0xCB#8, 0xFF#8, 0x34#8, 0x12#8]).img - (0 + 2) :=
  by decide

/-- Second case, one byte short; and the empty extension. -/
theorem witness_PrefixedRecipeIsConstructed_short :
    (State.session cbRows [0xCB#8, 0xFF#8, 0x34#8]).Inv ∧
    Memory.read (State.session cbRows [0xCB#8, 0xFF#8, 0x34#8]).img 0 = some 0xCB#8 ∧
    Memory.read (State.session cbRows [0xCB#8, 0xFF#8, 0x34#8]).img 1 = some 0xFF#8 ∧
    cbRows.cbExt.lookup 0xFF#8 = some wideRecipe ∧
    Memory.len (State.session cbRows [0xCB#8, 0xFF#8, 0x34#8]).img - (0 + 2) < immBytes wideRecipe ∧
    Params.reference.cbExt = [] :=
  by decide

/-- Each kind, and each of the three ways of a truncation. -/
theorem witness_FailureLeavesTheConsumedBytes :
    (start []).Inv ∧ step (start []) = .next (after (start []) 0 (.fail .streamExhausted)) ∧
    (start [0x00#8]).Inv ∧
    step (start [0x00#8]) = .next (after (start [0x00#8]) 1 (.fail (.unknownBaseOpcode 0x00#8))) ∧
    (start [0xCB#8, 0xCB#8]).Inv ∧
    step (start [0xCB#8, 0xCB#8]) =
    .next (after (start [0xCB#8, 0xCB#8]) 2 (.fail (.unknownPrefixedOpcode 0xCB#8 0xCB#8))) ∧
    (start [0xCB#8]).Inv ∧
    step (start [0xCB#8]) =
    .next (after (start [0xCB#8]) 1 (.fail (.truncatedOperand { pfx := none, opcode := 0xCB#8 } 1 0))) ∧
    (start [0x06#8]).Inv ∧
    step (start [0x06#8]) =
    .next (after (start [0x06#8]) 1 (.fail (.truncatedOperand { pfx := none, opcode := 0x06#8 } 1 0))) ∧
    (State.session cbRows [0xCB#8, 0xFF#8, 0x34#8]).Inv ∧
    step (State.session cbRows [0xCB#8, 0xFF#8, 0x34#8]) =
    .next (after (State.session cbRows [0xCB#8, 0xFF#8, 0x34#8]) 3 (.fail (.truncatedOperand { pfx := some 0xCB#8, opcode := 0xFF#8 } 2 1))) :=
  ⟨by decide, rfl, by decide, rfl, by decide, rfl, by decide, rfl, by decide, rfl, by decide, rfl⟩

theorem witness_UnknownBaseNeverNamesAPrefix :
    (start [0xCB#8]).Inv ∧
    step (start [0xCB#8]) =
    .next (after (start [0xCB#8]) 1 (.fail (.truncatedOperand { pfx := none, opcode := 0xCB#8 } 1 0))) :=
  ⟨by decide, rfl⟩

/-- Without an extension and with EXT_LD8. -/
theorem witness_OnlyLoad8IsDecoded :
    (start [0x7F#8]).Inv ∧
    step (start [0x7F#8]) = .next (after (start [0x7F#8]) 1 (.ok (.load8 (.register .A) (.register .A)))) ∧
    (startExt [0x41#8]).Inv ∧
    step (startExt [0x41#8]) = .next (after (startExt [0x41#8]) 1 (.ok (.load8 (.register .B) (.register .C)))) ∧
    (start [0x7F#8]).params.cbExt = [] ∧ (start [0x7F#8]).params.baseExt = [] ∧
    (startExt [0x41#8]).params.cbExt = [] ∧ (startExt [0x41#8]).params.baseExt = extLd8 :=
  ⟨by decide, rfl, by decide, rfl, rfl, rfl, rfl, rfl⟩

theorem witness_StepChangesNoMemory :
    step (start [0x7F#8]) = .next (after (start [0x7F#8]) 1 (.ok (.load8 (.register .A) (.register .A)))) :=
  rfl

/-- A success, and a failure of each kind a row can end with. -/
theorem witness_ExecFrame :
    exec .ldAA (start []) = .next (after (start []) 1 (.ok (.load8 (.register .A) (.register .A)))) ∧
    exec .prefixCb (start []) =
    .next (after (start []) 1 (.fail (.truncatedOperand { pfx := none, opcode := 0xCB#8 } 1 0))) ∧
    exec (.unknownBase 0x00#8) (start []) = .next (after (start []) 1 (.fail (.unknownBaseOpcode 0x00#8))) :=
  ⟨rfl, rfl, rfl⟩

/-- At the bound. -/
theorem witness_StreamOperationsAreBounded :
    (start [0x06#8, 0x02#8]).Inv ∧
    step (start [0x06#8, 0x02#8]) =
    .next (after (start [0x06#8, 0x02#8]) 2 (.ok (.load8 (.register .B) (.immediate 0x02#8)))) ∧
    streamOps (start [0x06#8, 0x02#8]) = 1 + maxLen Params.reference :=
  ⟨by decide, rfl, by decide⟩

/-- Different images, cursors and following bytes. -/
theorem witness_EqualBytesGiveEqualOutcomes :
    (start [0x06#8, 0x02#8, 0x7F#8]).Inv ∧
    step (start [0x06#8, 0x02#8, 0x7F#8]) =
    .next (after (start [0x06#8, 0x02#8, 0x7F#8]) 2 (.ok (.load8 (.register .B) (.immediate 0x02#8)))) ∧
    (at' Params.reference [0x00#8, 0x06#8, 0x02#8] 1).Inv ∧
    step (at' Params.reference [0x00#8, 0x06#8, 0x02#8] 1) =
    .next (after (at' Params.reference [0x00#8, 0x06#8, 0x02#8] 1) 2 (.ok (.load8 (.register .B) (.immediate 0x02#8)))) ∧
    (start [0x06#8, 0x02#8, 0x7F#8]).params = (at' Params.reference [0x00#8, 0x06#8, 0x02#8] 1).params ∧
    (start [0x06#8, 0x02#8, 0x7F#8]).ahead.take 2 = (at' Params.reference [0x00#8, 0x06#8, 0x02#8] 1).ahead.take 2 :=
  ⟨by decide, rfl, by decide, rfl, rfl, by decide⟩

/-- A success followed by another byte, and one at the end. -/
theorem witness_LaterBytesHaveNoInfluence :
    (start [0x06#8, 0x02#8, 0x7F#8]).Inv ∧ (at' Params.reference [0x00#8, 0x06#8, 0x02#8] 1).Inv ∧
    (start [0x06#8, 0x02#8, 0x7F#8]).params = (at' Params.reference [0x00#8, 0x06#8, 0x02#8] 1).params ∧
    step (start [0x06#8, 0x02#8, 0x7F#8]) =
    .next (after (start [0x06#8, 0x02#8, 0x7F#8]) 2 (.ok (.load8 (.register .B) (.immediate 0x02#8)))) ∧
    (.ok (.load8 (.register .B) (.immediate 0x02#8)) : DecodeOutcome) ≠ .fail .streamExhausted ∧
    (∀ op n k, (.ok (.load8 (.register .B) (.immediate 0x02#8)) : DecodeOutcome) ≠ .fail (.truncatedOperand op n k)) ∧
    (at' Params.reference [0x00#8, 0x06#8, 0x02#8] 1).ahead.take 2 = (start [0x06#8, 0x02#8, 0x7F#8]).ahead.take 2 :=
  ⟨by decide, by decide, rfl, rfl, by decide, by simp, by decide⟩

/-- The same bytes ahead at different cursors. -/
theorem witness_HistoryHasNoInfluence :
    (at' Params.reference [0x7F#8, 0x06#8, 0x02#8] 1).Inv ∧
    step (at' Params.reference [0x7F#8, 0x06#8, 0x02#8] 1) =
    .next (after (at' Params.reference [0x7F#8, 0x06#8, 0x02#8] 1) 2 (.ok (.load8 (.register .B) (.immediate 0x02#8)))) ∧
    (start [0x06#8, 0x02#8]).Inv ∧
    step (start [0x06#8, 0x02#8]) =
    .next (after (start [0x06#8, 0x02#8]) 2 (.ok (.load8 (.register .B) (.immediate 0x02#8)))) ∧
    (at' Params.reference [0x7F#8, 0x06#8, 0x02#8] 1).params = (start [0x06#8, 0x02#8]).params ∧
    (at' Params.reference [0x7F#8, 0x06#8, 0x02#8] 1).ahead = (start [0x06#8, 0x02#8]).ahead :=
  ⟨by decide, rfl, by decide, rfl, rfl, by decide⟩

/-- The catch-all row, and a row the second clause admits. -/
theorem witness_DecodeOfEncodeIsTheInstruction :
    (Instr.unknownBase 0x76#8).wellFormed = true ∧ Instr.unknownBase 0x76#8 ≠ .prefixCb ∧
    Instr.prefixCb.wellFormed = true :=
  by decide

theorem witness_EncodeOfDecodeIsTheBytes :
    decode [0xCB#8, 0x00#8, 0x06#8] = .ok (.unknownCb 0x00#8, [0x06#8]) ∧ decode [0xCB#8] = .ok (.prefixCb, []) :=
  ⟨rfl, rfl⟩

/-- Each way a sequence is rejected, and one that is not. -/
theorem witness_DecodeRejectsOnlyMissingBytes :
    decode [] = .error .exhausted ∧ decode [0x36#8] = .error (.immediateMissing 0x36#8) ∧ 0x36#8 &&& 0xC7#8 = 0x06#8 ∧
    decode [0x37#8] = .ok (.unknownBase 0x37#8, []) :=
  ⟨rfl, rfl, by decide, rfl⟩

/-- The codes of `0x77` and of `0x7E`: one of them may be `110`. -/
theorem witness_ExtLd8FollowsItsPatterns :
    ¬ ((0b110#3 : BitVec 3) = 0b110#3 ∧ (0b111#3 : BitVec 3) = 0b110#3) ∧
    ¬ ((0b111#3 : BitVec 3) = 0b110#3 ∧ (0b110#3 : BitVec 3) = 0b110#3) :=
  by decide

/-- Both clauses. -/
theorem witness_ExtensionsChangeNoSourcedEntry :
    0x06#8 ∉ prefixSet ∧ (sourcedTable.lookup 0x06#8).isSome = true ∧ 0x0E#8 ∉ prefixSet ∧
    sourcedTable.lookup 0x0E#8 = none :=
  by decide

theorem witness_ExtImmediateLoadsComplete :
    (startExt []).params.baseExt = extLd8 :=
  rfl

theorem witness_ExtLoadsToBAndCComplete :
    (startExt []).params.baseExt = extLd8 :=
  rfl

theorem witness_ExtLoadsToDAndEComplete :
    (startExt []).params.baseExt = extLd8 :=
  rfl

theorem witness_ExtLoadsToHAndLComplete :
    (startExt []).params.baseExt = extLd8 :=
  rfl

theorem witness_ExtLoadsToIndirectAndAComplete :
    (startExt []).params.baseExt = extLd8 :=
  rfl

theorem witness_ExtRowsAreUnknownByDefault :
    (encode .ldBC).head? = some 0x41#8 ∧ 0x41#8 ∉ prefixSet ∧ baseEntry (start []).params 0x41#8 = none ∧
    (encode (.ldCImm 0x00#8)).head? = some 0x0E#8 ∧ 0x0E#8 ∉ prefixSet ∧ baseEntry (start []).params 0x0E#8 = none :=
  by decide

/-- Both clauses that have a hypothesis. -/
theorem witness_UnknownRowsComplete :
    (Instr.unknownBase 0x76#8).wellFormed = true ∧ (startExt []).params.baseExt.lookup 0x76#8 = none ∧
    (start []).params.cbExt.lookup 0x00#8 = none :=
  by decide

end Sys2Proof.Tests
end

section
/-! Every row, every transaction and every step that answers a next state ends with `conclude`, so what they leave
unchanged is what `conclude` leaves unchanged (10_state.md R10 to R14, 20_memory.md R37). -/

namespace Sys2Proof.Machine

/-- A row that answers a next state ends with `conclude`. -/
theorem exec_concludes {i : Instr} {s t : State} (hx : exec i s = .next t) : ∃ n o, t = conclude n o s := by
  cases rowShape i with
  | base f own _ run _ => exact baseRow_concludes ((run s).symm.trans hx)
  | prefixed b row =>
    subst row
    exact prefixedRow_concludes (p := 0xCB#8) (b := b) hx
  | dangling row =>
    subst row
    exact ⟨_, _, (Host.Outcome.next.inj hx).symm⟩

theorem incomplete_concludes {r : Reject} {s t : State} (hx : incomplete r s = .next t) :
    ∃ n o, t = conclude n o s := by
  cases r with
  | exhausted => exact ⟨_, _, (Host.Outcome.next.inj hx).symm⟩
  | immediateMissing f => exact baseRow_concludes hx

/-- The launch answers a next state only from a state of the invariant. -/
theorem inv_of_launch_next {s t : State} {run : Host.Outcome State Fault Refusal} (hx : launch s run = .next t) :
    s.Inv := by
  unfold launch at hx
  split at hx
  · next hin =>
    split at hx
    · cases hx
    · next hl => exact ⟨hin.1, hin.2, hl⟩
  · cases hx

/-- A step that answers a next state ends with `conclude`: the launch let it run, and the row or the failure of an
incomplete row concluded. -/
theorem step_concludes {s t : State} (hx : step s = .next t) : ∃ n o, t = conclude n o s := by
  rw [step_of_inv (inv_of_launch_next hx)] at hx
  cases hd : decode s.ahead with
  | ok row =>
    rw [hd] at hx
    exact exec_concludes hx
  | error r =>
    rw [hd] at hx
    exact incomplete_concludes hx

/-- The frame of `conclude`: only the cursor and the ports change, and the count on the ports is the number of bytes the
cursor moved. -/
theorem frame_of_concludes {s t : State} (h : ∃ n o, t = conclude n o s) :
    (∀ a, Memory.read t.img a = Memory.read s.img a) ∧ t.img = s.img ∧ t.params = s.params ∧ s.pos ≤ t.pos ∧
    ∃ o, t.ports = some { outcome := o, consumed := t.pos - s.pos } := by
  obtain ⟨n, o, rfl⟩ := h
  exact ⟨fun _ => rfl, rfl, rfl, Nat.le_add_right _ _, o, by simp⟩

end Sys2Proof.Machine
end

section
/-! The statements on the image: what Peek returns, and that a step stores nothing (20_memory.md R32, R37). -/

namespace Sys2Proof.Machine

/-- Settles O8: in canonical form exactly the indices below `LEN` have a byte. -/
theorem peekReturnsNextByteOrExhausted : Obligations.PeekReturnsNextByteOrExhausted := by
  intro s ⟨hw, _, _⟩
  constructor
  · intro hlt
    obtain ⟨b, hb⟩ := Option.isSome_iff_exists.mp ((Memory.read_isSome_iff hw s.pos).mpr hlt)
    exact ⟨b, hb, peek_of_read hb⟩
  · intro hge
    exact peek_of_no_byte ((Memory.read_eq_none_iff hw s.pos).mpr (Nat.le_of_not_lt hge))

/-- Settles O27: a step that answers a next state ends with `conclude`. -/
theorem stepChangesNoMemory : Obligations.StepChangesNoMemory :=
  fun _ _ hx => frame_of_concludes (step_concludes hx)

end Sys2Proof.Machine
end

section
/-! The outcome of a transaction as a function of the loaded tables and the bytes it consumed, with nothing of the image
beyond them (40_instruction_model.md R97, 41_decode_transaction.md R111). -/

namespace Sys2Proof.Machine

/-- The outcome of Construct that pulled the bytes `imm`: the Instruction when they are all the recipe requires, else
the truncation that tells how many there were (R114, R115). -/
def constructOutcome (p : Params) (op : OpId) (r : Recipe) (imm : List Byte) : DecodeOutcome :=
  match buildInstr p.imm16Order r imm with
  | some i => .ok i
  | none => .fail (.truncatedOperand op (immBytes r) imm.length)

/-- The outcome of a transaction that consumed exactly the given bytes (R111). -/
def outcomeOfConsumed (p : Params) : List Byte → DecodeOutcome
  | [] => .fail .streamExhausted
  | f :: rest =>
    if f ∈ prefixSet then
      match rest with
      | [] => .fail (.truncatedOperand { pfx := none, opcode := f } 1 0)
      | b :: imm =>
        match prefixEntry p f b with
        | some r => constructOutcome p { pfx := some f, opcode := b } r imm
        | none => .fail (.unknownPrefixedOpcode f b)
    else
      match baseEntry p f with
      | some r => constructOutcome p { pfx := none, opcode := f } r rest
      | none => .fail (.unknownBaseOpcode f)

theorem buildInstr_of_short {order : Option ByteOrder} {r : Recipe} {imm : List Byte} (h : imm.length < immBytes r) :
    buildInstr order r imm = none := by
  cases r with
  | op _ => exact absurd h (Nat.not_lt_zero _)
  | opI8 _ =>
    obtain rfl := List.length_eq_zero_iff.mp (Nat.lt_one_iff.mp h)
    rfl
  | opI16 _ =>
    match imm with
    | [] => rfl
    | [_] => rfl
    | _ :: _ :: _ => exact absurd h (by simp [immBytes])

/-- Construct consumes `k` of the pending bytes, and those decide its outcome. -/
theorem construct_outcome {op : OpId} {r : Recipe} {h : Nat} {pending : List Byte} {s t : State}
    (hx : construct op r h pending s = .next t) :
    ∃ k ≤ pending.length, t = conclude (h + k) (constructOutcome s.params op r (pending.take k)) s := by
  obtain ⟨hle, i, hi, rfl⟩ | ⟨hlt, rfl⟩ := construct_cases hx
  · exact ⟨immBytes r, hle, by simp [returnOk, constructOutcome, hi]⟩
  · exact ⟨pending.length, le_rfl, by simp [raiseFailure, constructOutcome, buildInstr_of_short hlt]⟩

theorem baseRow_outcome {f : Byte} {s t : State} (hf : f ∉ prefixSet) (hx : baseRow f [] s = .next t) :
    ∃ k ≤ (Memory.bytesFrom s.img (s.pos + 1)).length,
      t = conclude (1 + k) (outcomeOfConsumed s.params (f :: (Memory.bytesFrom s.img (s.pos + 1)).take k)) s := by
  cases he : baseEntry s.params f with
  | none =>
    rw [baseRow_of_unknown he] at hx
    obtain rfl := Host.Outcome.next.inj hx
    exact ⟨0, Nat.zero_le _, by simp [raiseFailure, outcomeOfConsumed, hf, he]⟩
  | some r =>
    rw [baseRow_of_recipe he, pendingAfter_nil] at hx
    simpa [outcomeOfConsumed, hf, he] using construct_outcome hx

theorem prefixedRow_outcome {p b : Byte} {s t : State} (hp : p ∈ prefixSet) (hx : prefixedRow p b s = .next t) :
    ∃ k ≤ (Memory.bytesFrom s.img (s.pos + 2)).length,
      t = conclude (2 + k) (outcomeOfConsumed s.params (p :: b :: (Memory.bytesFrom s.img (s.pos + 2)).take k)) s := by
  cases he : prefixEntry s.params p b with
  | none =>
    rw [prefixedRow_of_unknown he] at hx
    obtain rfl := Host.Outcome.next.inj hx
    exact ⟨0, Nat.zero_le _, by simp [raiseFailure, outcomeOfConsumed, hp, he]⟩
  | some r =>
    rw [prefixedRow_of_recipe he, pendingAfter_nil] at hx
    simpa [outcomeOfConsumed, hp, he] using construct_outcome hx

/-- A step consumes `n` of the bytes ahead, and those decide its outcome. -/
theorem step_outcome {s t : State} (hs : s.Inv) (hx : step s = .next t) :
    ∃ n ≤ s.ahead.length, t = conclude n (outcomeOfConsumed s.params (s.ahead.take n)) s := by
  have hw := hs.1
  obtain ⟨_, e⟩ | ⟨p, hr, hp, hend, e⟩ | ⟨p, b, hr, hp, hr', e⟩ | ⟨f, hr, hf, e⟩ := step_cases hs <;> rw [e] at hx
  · obtain rfl := Host.Outcome.next.inj hx
    exact ⟨0, Nat.zero_le _, rfl⟩
  · have ha : s.ahead = [p] := by
      rw [ahead_of_read hw hr, Memory.bytesFrom_eq hw, (Memory.read_eq_none_iff hw _).mpr hend.ge]
    obtain rfl := Host.Outcome.next.inj hx
    exact ⟨1, by simp [ha], by simp [ha, raiseFailure, outcomeOfConsumed, hp]⟩
  · have ha : s.ahead = p :: b :: Memory.bytesFrom s.img (s.pos + 2) := by
      rw [ahead_of_read hw hr, Memory.bytesFrom_eq hw, hr']
    obtain ⟨k, hk, rfl⟩ := prefixedRow_outcome hp hx
    exact ⟨2 + k, by simp [ha]; omega, by simp [ha, Nat.add_comm 2 k]⟩
  · have ha := ahead_of_read hw hr
    obtain ⟨k, hk, rfl⟩ := baseRow_outcome hf hx
    exact ⟨1 + k, by simp [ha]; omega, by simp [ha, Nat.add_comm 1 k]⟩

/-- Settles O30: the outcome is `outcomeOfConsumed` of the consumed bytes, and the count is their number. -/
theorem equalBytesGiveEqualOutcomes : Obligations.EqualBytesGiveEqualOutcomes := by
  intro s t s' t' hs ht hp hx hy hb
  obtain ⟨n, hn, rfl⟩ := step_outcome hs hx
  obtain ⟨m, hm, rfl⟩ := step_outcome ht hy
  replace hb : s.ahead.take n = t.ahead.take m := by simpa using hb
  have hnm : n = m := by simpa [hn, hm] using congrArg List.length hb
  rw [conclude_ports, conclude_ports, hb, hp, hnm]

end Sys2Proof.Machine
end

section
/-! What a transaction consumes: on success exactly the bytes of its recipe, and never more than `MAX_LEN`
(41_decode_transaction.md R116, R120, 30_encoding.md R52). -/

namespace Sys2Proof.Machine

/-- The bytes ahead without the first `k` are the bytes from `k` indices further. -/
theorem drop_ahead {s : State} (hw : Memory.wf s.img) (k : Nat) :
    s.ahead.drop k = Memory.bytesFrom s.img (s.pos + k) := by
  rw [State.ahead, Memory.bytesFrom_of_wf hw, Memory.bytesFrom_of_wf hw, List.drop_drop]

/-- A step leaves the cursor within the image. -/
theorem step_pos_le_len {s t : State} (hs : s.Inv) (hx : step s = .next t) : t.pos ≤ Memory.len s.img := by
  have hpos := hs.2.1
  obtain ⟨n, hn, rfl⟩ := step_outcome hs hx
  rw [length_ahead hs.1] at hn
  rw [conclude_pos]
  omega

/-- Construct that returns an Instruction consumed all its bytes and built the Instruction of them (R114). -/
theorem construct_ok {op : OpId} {r : Recipe} {h c : Nat} {pending : List Byte} {s t : State} {i : Instruction}
    (hx : construct op r h pending s = .next t) (ho : t.ports = some { outcome := .ok i, consumed := c }) :
    c = h + immBytes r ∧ buildInstr s.params.imm16Order r (pending.take (immBytes r)) = some i := by
  obtain ⟨_, j, hj, rfl⟩ | ⟨_, rfl⟩ := construct_cases hx
  · rw [returnOk_ports] at ho
    cases ho
    exact ⟨rfl, hj⟩
  · rw [raiseFailure_ports] at ho
    cases ho

/-- A base transaction that returns an Instruction found a recipe. -/
theorem baseRow_ok {f : Byte} {c : Nat} {s t : State} {i : Instruction} (hw : Memory.wf s.img)
    (hx : baseRow f [] s = .next t) (ho : t.ports = some { outcome := .ok i, consumed := c }) :
    ∃ r, baseEntry s.params f = some r ∧ c = 1 + immBytes r ∧
      buildInstr s.params.imm16Order r ((s.ahead.drop 1).take (immBytes r)) = some i := by
  cases he : baseEntry s.params f with
  | none =>
    rw [baseRow_of_unknown he] at hx
    obtain rfl := Host.Outcome.next.inj hx
    rw [raiseFailure_ports] at ho
    cases ho
  | some r =>
    rw [baseRow_of_recipe he, pendingAfter_nil, ← drop_ahead hw] at hx
    exact ⟨r, rfl, construct_ok hx ho⟩

/-- A prefixed transaction that returns an Instruction found a recipe in the table of its prefix. -/
theorem prefixedRow_ok {p b : Byte} {c : Nat} {s t : State} {i : Instruction} (hw : Memory.wf s.img)
    (hx : prefixedRow p b s = .next t) (ho : t.ports = some { outcome := .ok i, consumed := c }) :
    ∃ r, prefixEntry s.params p b = some r ∧ c = 2 + immBytes r ∧
      buildInstr s.params.imm16Order r ((s.ahead.drop 2).take (immBytes r)) = some i := by
  cases he : prefixEntry s.params p b with
  | none =>
    rw [prefixedRow_of_unknown he] at hx
    obtain rfl := Host.Outcome.next.inj hx
    rw [raiseFailure_ports] at ho
    cases ho
  | some r =>
    rw [prefixedRow_of_recipe he, pendingAfter_nil, ← drop_ahead hw] at hx
    exact ⟨r, rfl, construct_ok hx ho⟩

/-- Settles O21: of the four ways a transaction starts, only a base row and a prefixed row with a recipe return an
Instruction. -/
theorem successConsumesItsLength : Obligations.SuccessConsumesItsLength := by
  intro s t i c hs hx ho
  refine ⟨?_, step_pos_le_len hs hx, ?_⟩
  · obtain ⟨n, o, rfl⟩ := step_concludes hx
    rw [conclude_ports] at ho
    cases ho
    rfl
  · obtain ⟨_, e⟩ | ⟨p, _, _, _, e⟩ | ⟨p, b, hr, hp, hr', e⟩ | ⟨f, hr, hf, e⟩ := step_cases hs <;> rw [e] at hx
    · cases hx
      cases ho
    · cases hx
      cases ho
    · obtain ⟨r, he, hc, hi⟩ := prefixedRow_ok hs.1 hx ho
      exact .inr ⟨p, b, r, hr, hp, hr', he, hc, hi⟩
    · obtain ⟨r, he, hc, hi⟩ := baseRow_ok hs.1 hx ho
      exact .inl ⟨f, r, hr, hf, he, hc, hi⟩

/-- No recipe a table holds requires more immediate bytes than `maxImmBytes`. -/
theorem immBytes_le_maxImmBytes {b : Byte} {r : Recipe} (t : TableExt) (h : t.lookup b = some r) :
    immBytes r ≤ maxImmBytes t := by
  induction t with
  | nil => cases h
  | cons e t ih =>
    rw [List.lookup_cons] at h
    split at h
    · cases h
      exact le_max_left _ _
    · exact (ih h).trans (le_max_right _ _)

theorem two_le_maxLen (p : Params) : 2 ≤ maxLen p := by
  unfold maxLen
  omega

theorem baseEntry_length_le_maxLen {p : Params} {f : Byte} {r : Recipe} (h : baseEntry p f = some r) :
    1 + immBytes r ≤ maxLen p := by
  unfold baseEntry at h
  split at h
  · cases h
  · rw [← List.lookup_append] at h
    have := immBytes_le_maxImmBytes _ h
    unfold maxLen
    omega

theorem prefixEntry_length_le_maxLen {p : Params} {pfx b : Byte} {r : Recipe} (h : prefixEntry p pfx b = some r) :
    2 + immBytes r ≤ maxLen p := by
  unfold prefixEntry at h
  split at h
  · have := immBytes_le_maxImmBytes _ h
    unfold maxLen
    omega
  · cases h

theorem construct_pos_le {op : OpId} {r : Recipe} {h : Nat} {pending : List Byte} {s t : State}
    (hx : construct op r h pending s = .next t) : t.pos ≤ s.pos + (h + immBytes r) := by
  obtain ⟨_, i, _, rfl⟩ | ⟨hlt, rfl⟩ := construct_cases hx
  · exact le_rfl
  · rw [raiseFailure_pos]
    omega

theorem baseRow_pos_le {f : Byte} {own : List Byte} {s t : State} (hx : baseRow f own s = .next t) :
    t.pos ≤ s.pos + maxLen s.params := by
  cases he : baseEntry s.params f with
  | none =>
    rw [baseRow_of_unknown he] at hx
    obtain rfl := Host.Outcome.next.inj hx
    have := two_le_maxLen s.params
    rw [raiseFailure_pos]
    omega
  | some r =>
    rw [baseRow_of_recipe he] at hx
    exact (construct_pos_le hx).trans (Nat.add_le_add_left (baseEntry_length_le_maxLen he) _)

theorem prefixedRow_pos_le {p b : Byte} {s t : State} (hx : prefixedRow p b s = .next t) :
    t.pos ≤ s.pos + maxLen s.params := by
  cases he : prefixEntry s.params p b with
  | none =>
    rw [prefixedRow_of_unknown he] at hx
    obtain rfl := Host.Outcome.next.inj hx
    exact Nat.add_le_add_left (two_le_maxLen s.params) _
  | some r =>
    rw [prefixedRow_of_recipe he] at hx
    exact (construct_pos_le hx).trans (Nat.add_le_add_left (prefixEntry_length_le_maxLen he) _)

theorem step_pos_le {s t : State} (hs : s.Inv) (hx : step s = .next t) : t.pos ≤ s.pos + maxLen s.params := by
  have hmax := two_le_maxLen s.params
  obtain ⟨_, e⟩ | ⟨p, _, _, _, e⟩ | ⟨p, b, _, _, _, e⟩ | ⟨f, _, _, e⟩ := step_cases hs <;> rw [e] at hx
  · cases hx
    exact Nat.add_le_add_left (Nat.zero_le _) _
  · cases hx
    rw [raiseFailure_pos]
    omega
  · exact prefixedRow_pos_le hx
  · exact baseRow_pos_le hx

/-- A loop of Construct that was cut short pulled fewer bytes than it was asked for. -/
theorem lt_of_pull_short {n k : Nat} {s t : State} (h : pull n s = .short k t) : k < n := by
  induction n generalizing s k with
  | zero => cases h
  | succ n ih =>
    unfold pull at h
    split at h
    · cases h
      exact Nat.succ_pos n
    · split at h
      · cases h
      · next hp =>
        cases h
        exact Nat.succ_lt_succ (ih hp)

/-- The loop of Construct calls `Next()` at most once for each byte it needs, the call that fails included. -/
theorem pullOps_le (n : Nat) (s : State) : pullOps n s ≤ n := by
  unfold pullOps
  split
  · exact le_rfl
  · next h => exact lt_of_pull_short h

/-- The bound of R120: one `Peek()`, and no more calls of `Next()` than the longest instruction has bytes. -/
theorem streamOps_le (s : State) : streamOps s ≤ 1 + maxLen s.params := by
  have hmax := two_le_maxLen s.params
  unfold streamOps
  split
  · omega
  · split
    · split
      · omega
      · split
        · omega
        · next r he =>
          have hlen := prefixEntry_length_le_maxLen he
          refine (Nat.add_le_add_left (pullOps_le (immBytes r) _) 3).trans ?_
          omega
    · split
      · omega
      · next r he =>
        have hlen := baseEntry_length_le_maxLen he
        refine (Nat.add_le_add_left (pullOps_le (immBytes r) _) 2).trans ?_
        omega

theorem maxImmBytes_append (t u : TableExt) : maxImmBytes (t ++ u) = max (maxImmBytes t) (maxImmBytes u) := by
  induction t with
  | nil => exact (Nat.zero_max _).symm
  | cons e t ih => rw [List.cons_append, maxImmBytes, maxImmBytes, ih, Nat.max_assoc]

theorem maxImmBytes_loadsFrom (first : Byte) (dst : Writable8) (srcs : List Readable8) :
    maxImmBytes (loadsFrom first dst srcs) = 0 := by
  induction srcs generalizing first with
  | nil => rfl
  | cons src srcs ih => rw [loadsFrom, maxImmBytes, ih]; rfl

/-- Of the rows of EXT_LD8 only the immediate loads pull a byte (R182, R183). -/
theorem maxImmBytes_extLd8 : maxImmBytes extLd8 = 1 := by
  simp only [extLd8, maxImmBytes_append, maxImmBytes_loadsFrom]
  rfl

theorem maxLen_profileExtLd8 : maxLen profileExtLd8 = 2 := by
  have hbase : profileExtLd8.baseExt = extLd8 := rfl
  rw [maxLen, hbase, maxImmBytes_append, maxImmBytes_extLd8]
  rfl

/-- Settles O29: both bounds are those of the longest recipe in the tables. -/
theorem streamOperationsAreBounded : Obligations.StreamOperationsAreBounded :=
  ⟨fun s _ hs hx => ⟨streamOps_le s, step_pos_le hs hx⟩, rfl, maxLen_profileExtLd8⟩

end Sys2Proof.Machine
end

section
/-! A transaction reads the parameters and the bytes ahead, and neither the ports nor what lies before the cursor
(41_decode_transaction.md R123). -/

namespace Sys2Proof.Machine

/-- The ports an outcome of a step leaves, none when it stopped. -/
def portsOf : Host.Outcome State Fault Refusal → Option Ports
  | .next t => t.ports
  | _ => none

/-- A row reads no ports: `conclude` overwrites them. -/
theorem exec_with_ports (i : Instr) (s : State) (p : Option Ports) : exec i { s with ports := p } = exec i s := by
  cases rowShape i with
  | base f own _ run _ =>
    rw [run, run]
    rfl
  | prefixed b row =>
    subst row
    rfl
  | dangling row =>
    subst row
    rfl

theorem incomplete_with_ports (r : Reject) (s : State) (p : Option Ports) :
    incomplete r { s with ports := p } = incomplete r s := by
  cases r with
  | exhausted => rfl
  | immediateMissing f => rfl

theorem step_with_ports (s : State) (p : Option Ports) : step { s with ports := p } = step s := by
  have ha : State.ahead { s with ports := p } = s.ahead := rfl
  unfold step
  rw [ha]
  cases decode s.ahead with
  | ok row =>
    simp only [exec_with_ports]
    rfl
  | error r =>
    simp only [incomplete_with_ports]
    rfl

section
variable {s t : State}

theorem construct_portsOf (hp : s.params = t.params) (op : OpId) (r : Recipe) (h : Nat) (pending : List Byte) :
    portsOf (construct op r h pending s) = portsOf (construct op r h pending t) := by
  unfold construct
  rw [hp]
  split
  · split
    · rfl
    · rfl
  · rfl

/-- What the stream delivers after an instruction's own bytes is given by the bytes ahead. -/
theorem pendingAfter_eq_of_ahead (hs : Memory.wf s.img) (ht : Memory.wf t.img) (ha : s.ahead = t.ahead) (h : Nat)
    (own : List Byte) : pendingAfter h own s = pendingAfter h own t := by
  rw [pendingAfter, pendingAfter, Nat.add_assoc, Nat.add_assoc, ← drop_ahead hs, ← drop_ahead ht, ha]

theorem baseRow_portsOf (hs : Memory.wf s.img) (ht : Memory.wf t.img) (hp : s.params = t.params)
    (ha : s.ahead = t.ahead) (f : Byte) (own : List Byte) :
    portsOf (baseRow f own s) = portsOf (baseRow f own t) := by
  unfold baseRow
  rw [hp, pendingAfter_eq_of_ahead hs ht ha]
  split
  · exact construct_portsOf hp _ _ _ _
  · rfl

theorem prefixedRow_portsOf (hs : Memory.wf s.img) (ht : Memory.wf t.img) (hp : s.params = t.params)
    (ha : s.ahead = t.ahead) (p b : Byte) : portsOf (prefixedRow p b s) = portsOf (prefixedRow p b t) := by
  unfold prefixedRow
  rw [hp, pendingAfter_eq_of_ahead hs ht ha]
  split
  · exact construct_portsOf hp _ _ _ _
  · rfl

theorem exec_portsOf (hs : Memory.wf s.img) (ht : Memory.wf t.img) (hp : s.params = t.params)
    (ha : s.ahead = t.ahead) (i : Instr) : portsOf (exec i s) = portsOf (exec i t) := by
  cases rowShape i with
  | base f own _ run _ =>
    rw [run, run]
    exact baseRow_portsOf hs ht hp ha f own
  | prefixed b row =>
    subst row
    exact prefixedRow_portsOf hs ht hp ha 0xCB#8 b
  | dangling row =>
    subst row
    rfl

/-- From two states of the invariant with the same parameters and the same bytes ahead a step leaves the same ports:
the bytes select the same row. -/
theorem step_portsOf (hs : s.Inv) (ht : t.Inv) (hp : s.params = t.params) (ha : s.ahead = t.ahead) :
    portsOf (step s) = portsOf (step t) := by
  rw [step_of_inv hs, step_of_inv ht, ha]
  cases decode t.ahead with
  | ok row => exact exec_portsOf hs.1 ht.1 hp ha row.1
  | error r =>
    cases r with
    | exhausted => rfl
    | immediateMissing f => exact baseRow_portsOf hs.1 ht.1 hp ha f []

end

/-- Settles O32: no row reads the ports, and the parameters and the bytes ahead give the ports it leaves. -/
theorem historyHasNoInfluence : Obligations.HistoryHasNoInfluence := by
  refine ⟨step_with_ports, ?_⟩
  intro s t s' t' hs ht hp ha hx hy
  simpa only [hx, hy, portsOf] using step_portsOf hs ht hp ha

end Sys2Proof.Machine
end

section
/-! A transaction whose opcode has a base recipe, format by format (30_encoding.md R53, R58), and from it the four sourced
loads (42_load8.md R141 to R144). -/

namespace Sys2Proof.Machine

/-- A prefix byte has no base recipe (R162). -/
theorem not_prefix_of_baseEntry {p : Params} {f : Byte} {r : Recipe} (he : baseEntry p f = some r) :
    f ∉ prefixSet := by
  intro hf
  obtain rfl := mem_prefixSet.mp hf
  cases he

/-- A sourced recipe is the base entry in every configuration (R65 (c)). -/
theorem baseEntry_of_sourced (p : Params) {f : Byte} {r : Recipe} (h : sourcedTable.lookup f = some r) :
    baseEntry p f = some r := by
  have hf : ¬ prefixSet.contains f = true := by
    intro hf
    obtain rfl := prefixSet_contains.mp hf
    cases h
  rw [baseEntry, if_neg hf, h]
  rfl

section
variable {s : State} {f : Byte}

/-- An opcode with a base recipe: Construct on the bytes after it. -/
theorem step_of_baseEntry (hs : s.Inv) (hr : Memory.read s.img s.pos = some f) {r : Recipe}
    (he : baseEntry s.params f = some r) :
    step s = construct { pfx := none, opcode := f } r 1 (Memory.bytesFrom s.img (s.pos + 1)) s := by
  rw [step_base hs hr (not_prefix_of_baseEntry he), baseRow_of_recipe he, pendingAfter_nil]

/-- Format `OP`: one byte, whatever follows. -/
theorem step_of_op (hs : s.Inv) (hr : Memory.read s.img s.pos = some f) {i : Instruction}
    (he : baseEntry s.params f = some (.op i)) : step s = .next (returnOk 1 i s) := by
  rw [step_of_baseEntry hs hr he]
  exact construct_of_enough (Nat.zero_le _) rfl

/-- Format `OP_I8` with its immediate. -/
theorem step_of_opI8 (hs : s.Inv) (hr : Memory.read s.img s.pos = some f) {t : InstructionOf (Slot8 1) Word16}
    (he : baseEntry s.params f = some (.opI8 t)) {v : Byte} (hv : Memory.read s.img (s.pos + 1) = some v) :
    step s = .next (returnOk 2 (t.map (fillOne v) id) s) := by
  rw [step_of_baseEntry hs hr he, Memory.bytesFrom_eq hs.1, hv]
  exact construct_of_enough (Nat.succ_pos _) rfl

/-- Format `OP_I8` whose opcode is the last byte. -/
theorem step_of_opI8_truncated (hs : s.Inv) (hr : Memory.read s.img s.pos = some f)
    {t : InstructionOf (Slot8 1) Word16} (he : baseEntry s.params f = some (.opI8 t))
    (hend : s.pos + 1 = Memory.len s.img) :
    step s = .next (raiseFailure 1 (.truncatedOperand { pfx := none, opcode := f } 1 0) s) := by
  have hnone : Memory.read s.img (s.pos + 1) = none := (Memory.read_eq_none_iff hs.1 _).mpr hend.ge
  rw [step_of_baseEntry hs hr he, Memory.bytesFrom_eq hs.1, hnone]
  exact construct_of_short Nat.one_pos

/-- Both branches of a sourced immediate load: the immediate is there, or the image ends after the opcode. -/
theorem step_of_sourced_loadImm (hs : s.Inv) (hr : Memory.read s.img s.pos = some f)
    {dst : Writable8Of (Slot8 1) Word16} (h : sourcedTable.lookup f = some (loadImm dst)) :
    (∀ v, Memory.read s.img (s.pos + 1) = some v →
      step s = .next (after s 2 (.ok (.load8 (dst.map (fillOne v) id) (.immediate v))))) ∧
    (s.pos + 1 = Memory.len s.img →
      step s = .next (after s 1 (.fail (.truncatedOperand { pfx := none, opcode := f } 1 0)))) :=
  have he := baseEntry_of_sourced s.params h
  ⟨fun _ hv => step_of_opI8 hs hr he hv, step_of_opI8_truncated hs hr he⟩

end

/-- Settles O17: `0x06` is a sourced immediate load. -/
theorem loadBImmediate : Obligations.LoadBImmediate :=
  fun _ hs hr => step_of_sourced_loadImm (dst := .register .B) hs hr rfl

/-- Settles O18: `0x36` is a sourced immediate load. -/
theorem loadIndirectImmediate : Obligations.LoadIndirectImmediate :=
  fun _ hs hr => step_of_sourced_loadImm (dst := .indirect .HL) hs hr rfl

/-- Settles O19: the sourced recipe of `0x7E` has no immediate. -/
theorem loadAFromIndirect : Obligations.LoadAFromIndirect :=
  fun s hs hr => step_of_op hs hr (baseEntry_of_sourced s.params rfl)

/-- Settles O20: the sourced recipe of `0x7F` has no immediate. -/
theorem loadAFromA : Obligations.LoadAFromA :=
  fun s hs hr => step_of_op hs hr (baseEntry_of_sourced s.params rfl)

end Sys2Proof.Machine
end

section
/-! A transaction whose prefix pair has a recipe: the same Construct step as for a base recipe, on the bytes after the pair
(43_prefix_cb.md R154). -/

namespace Sys2Proof.Machine

section
variable {s : State} {r : Recipe}

theorem length_drop_ahead (hw : Memory.wf s.img) (h : Nat) :
    (s.ahead.drop h).length = Memory.len s.img - (s.pos + h) := by
  rw [drop_ahead hw, Memory.length_bytesFrom hw]

/-- Construct with all its bytes in the image after the first `h` of the instruction (R114). -/
theorem construct_ahead_of_enough (hw : Memory.wf s.img) {op : OpId} {h : Nat}
    (hb : ∀ imm : List Byte, imm.length = immBytes r → ∃ i, buildInstr s.params.imm16Order r imm = some i)
    (hle : immBytes r ≤ Memory.len s.img - (s.pos + h)) :
    ∃ i, buildInstr s.params.imm16Order r ((s.ahead.drop h).take (immBytes r)) = some i ∧
      construct op r h (s.ahead.drop h) s = .next (returnOk (h + immBytes r) i s) := by
  rw [← length_drop_ahead hw] at hle
  obtain ⟨i, hi⟩ := hb _ (List.length_take_of_le hle)
  exact ⟨i, hi, construct_of_enough hle hi⟩

/-- Construct when the image ends before its bytes do: the rest of the image is consumed (R115). -/
theorem construct_ahead_of_short (hw : Memory.wf s.img) {op : OpId} {h : Nat} (hh : s.pos + h ≤ Memory.len s.img)
    (hlt : Memory.len s.img - (s.pos + h) < immBytes r) :
    construct op r h (s.ahead.drop h) s = .next (raiseFailure (Memory.len s.img - s.pos)
      (.truncatedOperand op (immBytes r) (Memory.len s.img - (s.pos + h))) s) := by
  have hcount : h + (Memory.len s.img - (s.pos + h)) = Memory.len s.img - s.pos := by omega
  rw [← length_drop_ahead hw] at hlt
  rw [construct_of_short hlt, length_drop_ahead hw, hcount]

/-- A prefix pair with a recipe: Construct on the bytes after the pair. -/
theorem step_of_prefixEntry (hs : s.Inv) {p b : Byte} (hr : Memory.read s.img s.pos = some p) (hp : p ∈ prefixSet)
    (hr' : Memory.read s.img (s.pos + 1) = some b) (he : prefixEntry s.params p b = some r) :
    step s = construct { pfx := some p, opcode := b } r 2 (s.ahead.drop 2) s := by
  rw [step_prefixed hs hr hp hr', prefixedRow_of_recipe he, pendingAfter_nil, drop_ahead hs.1]

end

/-- The entries behind `0xCB` are those of `PREFIX_TABLE_CB_EXT` (R61, R154). -/
theorem prefixEntry_cb (p : Params) (b : Byte) : prefixEntry p 0xCB#8 b = p.cbExt.lookup b := rfl

/-- Settles O23: the step is Construct on the bytes after the pair, which ends within the image; an accepted
configuration gives `build` a value, and an empty table has no entry. -/
theorem prefixedRecipeIsConstructed : Obligations.PrefixedRecipeIsConstructed := by
  constructor
  · intro s b r hs hr hr' he
    rw [← prefixEntry_cb] at he
    have hpair : s.pos + 2 ≤ Memory.len s.img := (Memory.read_isSome_iff hs.1 (s.pos + 1)).mp (by simp [hr'])
    rw [step_of_prefixEntry hs hr (mem_prefixSet.mpr rfl) hr' he]
    exact ⟨construct_ahead_of_enough hs.1 fun _ => prefixEntry_builds hs.2.2 he,
      construct_ahead_of_short hs.1 hpair⟩
  · intro p b hempty
    rw [prefixEntry_cb, hempty, List.lookup_nil]

end Sys2Proof.Machine
end


section
/-! What the base table leaves unassigned: a byte or a row whose base entry is Unknown fails after one byte
(44_unassigned_and_declared_families.md R160, R161). -/

namespace Sys2Proof.Machine

/-- Settles O14: a first byte that is no prefix is looked up in the base table, whose entry is Unknown. -/
theorem unknownBaseByteConsumesOneByte : Obligations.UnknownBaseByteConsumesOneByte := by
  intro s b hs hr hb he
  rw [step_base hs hr hb, baseRow_of_unknown he]
  rfl

/-- Settles O51: a row whose first byte is no prefix is the base transaction of its bytes. -/
theorem extRowsAreUnknownByDefault : Obligations.ExtRowsAreUnknownByDefault := by
  constructor
  · intro i s f hhead hf he
    obtain ⟨own, henc⟩ := List.head?_eq_some_iff.mp hhead
    rw [exec_of_encode henc hf, baseRow_of_unknown he]
    rfl
  · decide

end Sys2Proof.Machine
end

section
/-! The instruction families without an opcode (44_unassigned_and_declared_families.md R163 to R169): the sourced recipes
and those of EXT_LD8 build nothing but Load8. -/

namespace Sys2Proof.Machine

/-- The value is of the case Load8 (R82), whatever its operands. -/
def isLoad8 {β ω : Type} : InstructionOf β ω → Bool
  | .load8 _ _ => true
  | _ => false

theorem isLoad8_iff {β ω : Type} {i : InstructionOf β ω} : isLoad8 i = true ↔ ∃ dst src, i = .load8 dst src := by
  constructor
  · intro h
    cases i with
    | load8 dst src => exact ⟨dst, src, rfl⟩
    | _ => cases h
  · rintro ⟨dst, src, rfl⟩
    rfl

/-- Rewriting the value fields keeps the case. -/
theorem isLoad8_map {β β' ω ω' : Type} (f : β → β') (g : ω → ω') (i : InstructionOf β ω) :
    isLoad8 (i.map f g) = isLoad8 i := by
  cases i <;> rfl

/-- The Instruction with slots that a recipe fills is of the case Load8. -/
def recipeIsLoad8 : Recipe → Bool
  | .op i => isLoad8 i
  | .opI8 t => isLoad8 t
  | .opI16 t => isLoad8 t

/-- `build` fills value fields and keeps everything else (R58), the case with it. -/
theorem isLoad8_of_buildInstr {order : Option ByteOrder} {r : Recipe} {imm : List Byte} {i : Instruction}
    (hi : buildInstr order r imm = some i) : isLoad8 i = recipeIsLoad8 r := by
  unfold buildInstr at hi
  split at hi
  · cases hi
    rfl
  · cases hi
    exact isLoad8_map _ _ _
  · obtain ⟨o, _, rfl⟩ := Option.map_eq_some_iff.mp hi
    exact isLoad8_map _ _ _
  · cases hi

/-- A base recipe stands in the sourced table or in the extension (R65 (c)). -/
theorem mem_of_baseEntry {p : Params} {f : Byte} {r : Recipe} (he : baseEntry p f = some r) :
    (f, r) ∈ sourcedTable ++ p.baseExt := by
  unfold baseEntry at he
  split at he
  · cases he
  · rw [← List.lookup_append] at he
    obtain ⟨l₁, l₂, hl, _⟩ := List.lookup_eq_some_iff.mp he
    rw [hl]
    simp

theorem sourcedTable_isLoad8 : ∀ e ∈ sourcedTable, recipeIsLoad8 e.2 = true := by decide

theorem extLd8_isLoad8 : ∀ e ∈ extLd8, recipeIsLoad8 e.2 = true := by decide

/-- With no extension or EXT_LD8 every base recipe is a Load8. -/
theorem baseEntry_isLoad8 {p : Params} (hext : p.baseExt = [] ∨ p.baseExt = extLd8) {f : Byte} {r : Recipe}
    (he : baseEntry p f = some r) : recipeIsLoad8 r = true := by
  rcases List.mem_append.mp (mem_of_baseEntry he) with hmem | hmem
  · exact sourcedTable_isLoad8 _ hmem
  · rcases hext with hext | hext <;> rw [hext] at hmem
    · cases hmem
    · exact extLd8_isLoad8 _ hmem

/-- Settles O26: an Instruction is built from a recipe; the prefix has none in an empty table, and every base recipe is a
Load8. -/
theorem onlyLoad8IsDecoded : Obligations.OnlyLoad8IsDecoded := by
  intro s t i c hs hcb hext hx ho
  obtain ⟨_, _, ⟨f, r, _, _, he, _, hi⟩ | ⟨p, b, r, _, hp, _, he, _, _⟩⟩ := successConsumesItsLength s t i c hs hx ho
  · have hload : isLoad8 i = true := (isLoad8_of_buildInstr hi).trans (baseEntry_isLoad8 hext he)
    obtain ⟨dst, src, rfl⟩ := isLoad8_iff.mp hload
    exact ⟨⟨dst, src, rfl⟩, rfl⟩
  · obtain rfl := mem_prefixSet.mp hp
    rw [prefixEntry_cb, hcb] at he
    cases he

end Sys2Proof.Machine
end

section
/-! The round trip of decoding and encoding (30_encoding.md sections 1 to 3). First bytes fall into four disjoint classes:
the prefix, the pattern `01 ddd sss` without `0x76` (R182), the pattern `00 ddd 110` (R183) and the bytes of no other row.
`decode_cases` says once what decoding gives on each. -/

namespace Sys2Proof

/-- A byte has a row of format `OP` exactly when it has the pattern of R182: each of the 63 rows has it, and each byte that
has it is found. -/
theorem plainRows_isSome_iff {f : Byte} :
    (plainRows.lookup f).isSome = true ↔ f &&& 0xC0#8 = 0x40#8 ∧ f ≠ 0x76#8 := by
  have hrows : ∀ e ∈ plainRows, e.1 &&& 0xC0#8 = 0x40#8 ∧ e.1 ≠ 0x76#8 := by decide
  have hbytes : ∀ f : Byte, f &&& 0xC0#8 = 0x40#8 → f ≠ 0x76#8 → (plainRows.lookup f).isSome = true := by decide
  constructor
  · intro h
    obtain ⟨i, hi⟩ := Option.isSome_iff_exists.mp h
    exact hrows _ (plainRows_mem hi)
  · exact fun ⟨hpat, hne⟩ => hbytes f hpat hne

theorem immRows_mem {f : Byte} {mk : Byte → Instr} (h : immRows.lookup f = some mk) : (f, mk) ∈ immRows := by
  obtain ⟨l₁, l₂, hl, _⟩ := List.lookup_eq_some_iff.mp h
  rw [hl]
  simp

/-- A byte has a row of format `OP_I8` exactly when it has the pattern of R183. -/
theorem immRows_isSome_iff {f : Byte} : (immRows.lookup f).isSome = true ↔ f &&& 0xC7#8 = 0x06#8 := by
  have hrows : ∀ e ∈ immRows, e.1 &&& 0xC7#8 = 0x06#8 := by decide
  have hbytes : ∀ f : Byte, f &&& 0xC7#8 = 0x06#8 → (immRows.lookup f).isSome = true := by decide
  constructor
  · intro h
    obtain ⟨mk, hmk⟩ := Option.isSome_iff_exists.mp h
    exact hrows _ (immRows_mem hmk)
  · exact hbytes f

/-- The bytes of the catch-all row UNKNOWN_BASE are those that are no prefix and have no row in either list. -/
theorem wellFormed_unknownBase_iff {f : Byte} :
    (Instr.unknownBase f).wellFormed = true ↔
      f ∉ prefixSet ∧ plainRows.lookup f = none ∧ immRows.lookup f = none := by
  rw [← Option.not_isSome_iff_eq_none, ← Option.not_isSome_iff_eq_none, plainRows_isSome_iff, immRows_isSome_iff]
  simp [Instr.wellFormed, hasOwnRow, and_assoc, imp_iff_not_or]

theorem plainRows_wellFormed : ∀ e ∈ plainRows, e.2.wellFormed = true := by decide

theorem immRows_wellFormed (v : Byte) : ∀ e ∈ immRows, (e.2 v).wellFormed = true := by
  simp [immRows, Instr.wellFormed]

theorem decode_unknownBase {f : Byte} (h : (Instr.unknownBase f).wellFormed = true) (rest : List Byte) :
    decode (f :: rest) = .ok (.unknownBase f, rest) := by
  obtain ⟨hf, hplain, himm⟩ := wellFormed_unknownBase_iff.mp h
  simp [decode_of_not_prefix hf, decodeBase, hplain, himm]

/-- The opcode of an immediate load as the last byte (R194). -/
theorem decode_immediateMissing {f : Byte} (h : f &&& 0xC7#8 = 0x06#8) :
    decode [f] = .error (.immediateMissing f) := by
  have hf : f ∉ prefixSet := by
    intro hp
    obtain rfl := mem_prefixSet.mp hp
    exact absurd h (by decide)
  have hplain : plainRows.lookup f = none := by
    rw [← Option.not_isSome_iff_eq_none, plainRows_isSome_iff]
    intro ⟨h40, _⟩
    have : f &&& 0xC7#8 &&& 0xC0#8 = 0x40#8 := by
      rw [BitVec.and_assoc]
      exact h40
    rw [h] at this
    exact absurd this (by decide)
  obtain ⟨mk, himm⟩ := Option.isSome_iff_exists.mp (immRows_isSome_iff.mpr h)
  simp [decode_of_not_prefix hf, decodeBase, hplain, himm]

/-- Everything decoding can give: a rejection of no byte or of an opcode without its immediate, else a well-formed row that
encodes to exactly the bytes it was read from. -/
theorem decode_cases (bs : List Byte) :
    (bs = [] ∧ decode bs = .error .exhausted) ∨
    (∃ f, bs = [f] ∧ f &&& 0xC7#8 = 0x06#8 ∧ decode bs = .error (.immediateMissing f)) ∨
    (∃ i rest, i.wellFormed = true ∧ encode i ++ rest = bs ∧ decode bs = .ok (i, rest)) := by
  cases bs with
  | nil => exact .inl ⟨rfl, rfl⟩
  | cons f rest =>
    by_cases hf : f ∈ prefixSet
    · obtain rfl := mem_prefixSet.mp hf
      cases rest with
      | nil => exact .inr (.inr ⟨.prefixCb, [], rfl, rfl, rfl⟩)
      | cons b rest => exact .inr (.inr ⟨.unknownCb b, rest, rfl, rfl, rfl⟩)
    · rw [decode_of_not_prefix hf]
      obtain ⟨i, hi, e⟩ | ⟨mk, v, rest', _, hmk, rfl, e⟩ | ⟨mk, _, hmk, rfl, e⟩ | ⟨hplain, himm, e⟩ :=
        decodeBase_cases f rest
      · have hmem := plainRows_mem hi
        exact .inr (.inr ⟨i, rest, plainRows_wellFormed _ hmem,
          congrArg (· ++ rest) (Machine.plainRows_encode _ hmem), e⟩)
      · have hmem := immRows_mem hmk
        exact .inr (.inr ⟨mk v, rest', immRows_wellFormed v _ hmem,
          congrArg (· ++ rest') (Machine.immRows_encode v _ hmem), e⟩)
      · exact .inr (.inl ⟨f, rfl, immRows_isSome_iff.mp (by simp [hmk]), e⟩)
      · exact .inr (.inr ⟨.unknownBase f, rest, wellFormed_unknownBase_iff.mpr ⟨hf, hplain, himm⟩, rfl, e⟩)

/-- A row but PREFIX_CB is read back from its bytes. Only UNKNOWN_BASE has a first byte that is not fixed; on every other
row the lookup of the fixed first byte computes. -/
theorem decode_encode_append {i : Instr} (h : i.wellFormed = true) (hne : i ≠ .prefixCb) (rest : List Byte) :
    decode (encode i ++ rest) = .ok (i, rest) := by
  cases i
  case prefixCb => exact absurd rfl hne
  case unknownBase f => exact decode_unknownBase h rest
  all_goals rfl

/-- Settles O35: with nothing following PREFIX_CB is read back too. -/
theorem decodeOfEncodeIsTheInstruction : Obligations.DecodeOfEncodeIsTheInstruction := by
  intro i h
  refine ⟨?_, fun rest hne => decode_encode_append h hne rest⟩
  by_cases hne : i = .prefixCb
  · subst hne
    exact decode_prefix_nil
  · simpa using decode_encode_append h hne []

/-- Settles O36: decoding that does not reject read a well-formed row from exactly its encoding. -/
theorem encodeOfDecodeIsTheBytes : Obligations.EncodeOfDecodeIsTheBytes := by
  intro bs i rest hd
  obtain ⟨_, e⟩ | ⟨f, _, _, e⟩ | ⟨j, rest', hwf, henc, e⟩ := decode_cases bs
  · cases e.symm.trans hd
  · cases e.symm.trans hd
  · cases e.symm.trans hd
    exact ⟨hwf, henc⟩

/-- Settles O37: the three ways decoding can end exclude each other. -/
theorem decodeRejectsOnlyMissingBytes : Obligations.DecodeRejectsOnlyMissingBytes := by
  intro bs
  obtain ⟨rfl, e⟩ | ⟨g, rfl, hg, e⟩ | ⟨i, rest, _, _, e⟩ := decode_cases bs
  · exact ⟨iff_of_true e rfl, fun f => iff_of_false (by simp [e]) (by simp), .inr (.inl rfl)⟩
  · refine ⟨iff_of_false (by simp [e]) (by simp), fun f => ?_, .inr (.inr ⟨g, rfl, hg⟩)⟩
    constructor
    · intro hd
      cases e.symm.trans hd
      exact ⟨rfl, hg⟩
    · rintro ⟨hb, _⟩
      cases hb
      exact e
  · refine ⟨iff_of_false (by simp [e]) ?_, fun f => iff_of_false (by simp [e]) ?_, .inl ⟨_, e⟩⟩
    · rintro rfl
      cases e
    · rintro ⟨rfl, hf⟩
      cases e.symm.trans (decode_immediateMissing hf)

/-- Settles O6: the launch lets a state of the invariant run, and what was decoded is well formed and encodes back (O36). -/
theorem stepRunsDecodedInstruction : Obligations.StepRunsDecodedInstruction := by
  intro s i rest hs hd
  obtain ⟨hwf, henc⟩ := encodeOfDecodeIsTheBytes _ _ _ hd
  refine ⟨hwf, henc, ?_⟩
  rw [Machine.step_of_inv hs, hd]

end Sys2Proof
end

section
/-! Which bytes the base table leaves Unknown, in the reference configuration (30_encoding.md R60, decision D5) and under
EXT_LD8 (45_ext_ld8_profile.md R182, R183). -/

namespace Sys2Proof.Machine

/-- The sourced recipes are the only ones of the reference configuration (R60, D5). -/
theorem baseEntry_reference_isSome : ∀ b : Byte,
    (baseEntry Params.reference b).isSome = [0x06#8, 0x36#8, 0x7E#8, 0x7F#8].contains b := by decide

/-- Under EXT_LD8 a byte that is no prefix has a recipe exactly when it has a row of its own: each recipe stands at such a
byte, and each such byte finds one. -/
theorem baseEntry_profileExtLd8_isSome_iff {b : Byte} (hb : b ∉ prefixSet) :
    (baseEntry profileExtLd8 b).isSome = true ↔ hasOwnRow b = true := by
  have hrecipes : ∀ e ∈ sourcedTable ++ extLd8, hasOwnRow e.1 = true := by decide
  have hbytes : ∀ b : Byte, hasOwnRow b = true → b ∉ prefixSet → (baseEntry profileExtLd8 b).isSome = true := by decide
  constructor
  · intro h
    obtain ⟨r, hr⟩ := Option.isSome_iff_exists.mp h
    exact hrecipes _ (mem_of_baseEntry hr)
  · exact fun h => hbytes b h hb

/-- Under EXT_LD8 the bytes left Unknown are those of the catch-all row. -/
theorem baseEntry_profileExtLd8_isNone (b : Byte) :
    (!prefixSet.contains b && (baseEntry profileExtLd8 b).isNone) = (Instr.unknownBase b).wellFormed := by
  by_cases hb : b ∈ prefixSet
  · obtain rfl := mem_prefixSet.mp hb
    rfl
  · have hrow := Bool.eq_iff_iff.mpr (baseEntry_profileExtLd8_isSome_iff hb)
    simp [Instr.wellFormed, hb, ← hrow]

/-- The catch-all row has the 256 bytes but the prefix, the 63 of R182 and the 8 of R183. -/
theorem length_filter_unknownBase :
    ((List.range 256).filter fun k => (Instr.unknownBase (BitVec.ofNat 8 k)).wellFormed).length = 184 := by
  decide +kernel

/-- Settles O39: the entries of the reference configuration are counted, and those left Unknown under EXT_LD8 are the bytes
of the catch-all row. -/
theorem referenceTableHasFourRecipes : Obligations.ReferenceTableHasFourRecipes := by
  refine ⟨baseEntry_reference_isSome, ?_, ?_, rfl⟩
  · decide +kernel
  · exact (congrArg List.length (List.filter_congr fun k _ => baseEntry_profileExtLd8_isNone _)).trans
      length_filter_unknownBase

end Sys2Proof.Machine
end

section
/-! When a transaction fails at the end of the image, and when on a prefix pair without a recipe (60_exceptions.md R191,
R193). -/

namespace Sys2Proof.Machine

/-- Construct pulls bytes only after an opcode: it never reports an exhausted stream (R115). -/
theorem constructOutcome_ne_streamExhausted (p : Params) (op : OpId) (r : Recipe) (imm : List Byte) :
    constructOutcome p op r imm ≠ .fail .streamExhausted := by
  unfold constructOutcome
  split <;> simp

/-- A transaction that consumed a byte has another outcome than StreamExhausted. -/
theorem outcomeOfConsumed_cons_ne_streamExhausted (p : Params) (f : Byte) (rest : List Byte) :
    outcomeOfConsumed p (f :: rest) ≠ .fail .streamExhausted := by
  by_cases hf : f ∈ prefixSet
  · cases rest with
    | nil => simp [outcomeOfConsumed, hf]
    | cons b imm =>
      cases he : prefixEntry p f b with
      | none => simp [outcomeOfConsumed, hf, he]
      | some r => simpa [outcomeOfConsumed, hf, he] using constructOutcome_ne_streamExhausted p _ r imm
  · cases he : baseEntry p f with
    | none => simp [outcomeOfConsumed, hf, he]
    | some r => simpa [outcomeOfConsumed, hf, he] using constructOutcome_ne_streamExhausted p _ r rest

/-- Away from the end every way a transaction starts consumes the first byte, and then its outcome is another. -/
theorem pos_eq_len_of_runOver {s t : State} (hs : s.Inv) (hx : step s = .next t) (ho : t.runOver) :
    s.pos = Memory.len s.img := by
  obtain ⟨hend, _⟩ | ⟨p, _, _, _, e⟩ | ⟨p, b, _, hp, _, e⟩ | ⟨f, _, hf, e⟩ := step_cases hs
  · exact hend
  · obtain rfl := Host.Outcome.next.inj (e.symm.trans hx)
    simp at ho
  · obtain ⟨k, _, rfl⟩ := prefixedRow_outcome hp (e.symm.trans hx)
    exact absurd (Option.some.inj ho) (outcomeOfConsumed_cons_ne_streamExhausted _ _ _)
  · obtain ⟨k, _, rfl⟩ := baseRow_outcome hf (e.symm.trans hx)
    exact absurd (Option.some.inj ho) (outcomeOfConsumed_cons_ne_streamExhausted _ _ _)

/-- Settles O12: at the end the step is `raiseFailure 0 .streamExhausted`, and elsewhere it returns another outcome. -/
theorem streamExhaustedExactlyAtTheEnd : Obligations.StreamExhaustedExactlyAtTheEnd := by
  intro s hs
  refine ⟨⟨?_, fun hend => ⟨_, step_at_end hs hend, rfl⟩⟩, step_at_end hs⟩
  rintro ⟨t, hx, ho⟩
  exact pos_eq_len_of_runOver hs hx ho

/-- Settles O15: the byte after a prefix is looked up in the table of that prefix, which is empty in the reference
configuration (decision D6). -/
theorem unknownPrefixedByteConsumesTwoBytes : Obligations.UnknownPrefixedByteConsumesTwoBytes := by
  constructor
  · intro s p b hs hr hp hr' he
    rw [step_prefixed hs hr hp hr', prefixedRow_of_unknown he]
    rfl
  · exact prefixEntry_cb Params.reference

end Sys2Proof.Machine
end

section
/-! A new session delivers its whole image, from index 0 on (70_reset_and_hazards.md R220, R221, 20_memory.md R39). -/

namespace Sys2Proof.Machine

/-- The bytes ahead of an index of an image are the rest of the sequence the image was made of. -/
theorem Memory.bytesFrom_ofBytes (bytes : List Byte) (a : Nat) :
    Memory.bytesFrom (Memory.ofBytes bytes) a = bytes.drop a := by
  rw [Memory.bytesFrom_of_wf (Memory.ofBytes_wf bytes), Memory.ofBytes, Memory.bytes_cellsFrom]

/-- A new session has its whole byte sequence still to deliver, because its cursor is at 0. -/
@[simp] theorem session_ahead (p : Params) (bytes : List Byte) : (State.session p bytes).ahead = bytes := by
  rw [State.ahead, session_img, session_pos, Memory.bytesFrom_ofBytes, List.drop_zero]

/-- Settles O1: the image reads as the byte sequence (`read_ofBytes`), and all of it lies ahead of the cursor
(`session_ahead`). -/
theorem sessionStartsAtIndexZero : Obligations.SessionStartsAtIndexZero := fun p bytes =>
  ⟨session_pos p bytes, session_params p bytes, session_ports p bytes, Memory.read_ofBytes bytes,
    session_ahead p bytes⟩

end Sys2Proof.Machine
end

section
/-! The invariant of a session holds from its start, and every step completes and keeps it (10_state.md R12,
41_decode_transaction.md R125, 70_reset_and_hazards.md R220). -/

namespace Sys2Proof.Machine

/-- A transaction that ends within the image keeps the invariant: it changes neither the image nor the parameters. -/
theorem conclude_inv {s : State} (hs : s.Inv) {n : Nat} (o : DecodeOutcome) (hn : s.pos + n ≤ Memory.len s.img) :
    (conclude n o s).Inv :=
  ⟨hs.1, hn, hs.2.2⟩

theorem step_keeps_inv {s t : State} (hs : s.Inv) (hx : step s = .next t) : t.Inv := by
  have hpos := step_pos_le_len hs hx
  obtain ⟨n, o, rfl⟩ := step_concludes hx
  exact conclude_inv hs o hpos

/-- Construct answers a next state when `build` has a value on every sequence of the length it requires. -/
theorem construct_completes {op : OpId} {r : Recipe} {h : Nat} {pending : List Byte} {s : State}
    (hb : ∀ imm : List Byte, imm.length = immBytes r → ∃ i, buildInstr s.params.imm16Order r imm = some i) :
    ∃ t, construct op r h pending s = .next t := by
  by_cases hle : immBytes r ≤ pending.length
  · obtain ⟨i, hi⟩ := hb _ (List.length_take_of_le hle)
    exact ⟨_, construct_of_enough hle hi⟩
  · exact ⟨_, construct_of_short (Nat.lt_of_not_le hle)⟩

/-- In an accepted configuration a base transaction completes, whatever its byte. -/
theorem baseRow_completes {s : State} (hl : launchRefusal s = none) (f : Byte) (own : List Byte) :
    ∃ t, baseRow f own s = .next t := by
  cases he : baseEntry s.params f with
  | none => exact ⟨_, baseRow_of_unknown he⟩
  | some r =>
    rw [baseRow_of_recipe he]
    exact construct_completes fun _ => baseEntry_builds hl he

/-- In an accepted configuration a prefixed transaction completes, whatever its pair. -/
theorem prefixedRow_completes {s : State} (hl : launchRefusal s = none) (p b : Byte) :
    ∃ t, prefixedRow p b s = .next t := by
  cases he : prefixEntry s.params p b with
  | none => exact ⟨_, prefixedRow_of_unknown he⟩
  | some r =>
    rw [prefixedRow_of_recipe he]
    exact construct_completes fun _ => prefixEntry_builds hl he

/-- A step from a state of the invariant neither faults nor refuses. -/
theorem step_completes {s : State} (hs : s.Inv) : ∃ t, step s = .next t := by
  obtain ⟨_, e⟩ | ⟨p, _, _, _, e⟩ | ⟨p, b, _, _, _, e⟩ | ⟨f, _, _, e⟩ := step_cases hs <;> rw [e]
  · exact ⟨_, rfl⟩
  · exact ⟨_, rfl⟩
  · exact prefixedRow_completes hs.2.2 p b
  · exact baseRow_completes hs.2.2 f []

/-- Settles O4: the step completes, ends within the image, and changes only the cursor and the ports. -/
theorem stepCompletesAndKeepsInvariant : Obligations.StepCompletesAndKeepsInvariant := by
  intro s hs
  obtain ⟨t, hx⟩ := step_completes hs
  obtain ⟨_, himg, hparams, hpos, o, hports⟩ := frame_of_concludes (step_concludes hx)
  exact ⟨t, hx, step_keeps_inv hs hx, hpos, himg, hparams, by simp [hports]⟩

theorem session_inv {p : Params} {bytes : List Byte} (hl : launchRefusal (State.session p bytes) = none) :
    (State.session p bytes).Inv :=
  ⟨Memory.ofBytes_wf bytes, Nat.zero_le _, hl⟩

/-- Reset is a session, and its configuration is accepted. -/
theorem reset_inv : State.reset.Inv := session_inv (p := Params.reference) (bytes := []) rfl

/-- Settles O3: a session starts at index 0 of an image in canonical form. -/
theorem newSessionMeetsInvariant : Obligations.NewSessionMeetsInvariant :=
  ⟨reset_inv, fun _ _ => session_inv⟩

/-- Settles O2: the values of reset are those of the session, and its image is at its end. -/
theorem resetIsTheReferenceSession : Obligations.ResetIsTheReferenceSession :=
  ⟨rfl, reset_pos, reset_ports, reset_params, step_at_end reset_inv rfl⟩

/-- Settles O28: a row that answers a next state ends with `conclude`. -/
theorem execFrame : Obligations.ExecFrame :=
  fun _ _ _ hx => frame_of_concludes (exec_concludes hx)

end Sys2Proof.Machine
end

section
/-! The stream operation `Next()` (20_memory.md R33 to R35), and what a caller's own use of it keeps
(70_reset_and_hazards.md R228). -/

namespace Sys2Proof.Machine

/-- Settles O9: in canonical form exactly the indices below `LEN` have a byte. -/
theorem nextConsumesExactlyOneByte : Obligations.NextConsumesExactlyOneByte := by
  intro s ⟨hw, _, _⟩
  constructor
  · intro hlt
    obtain ⟨b, hb⟩ := Option.isSome_iff_exists.mp ((Memory.read_isSome_iff hw s.pos).mpr hlt)
    exact ⟨b, hb, next_of_read hb⟩
  · intro hge
    exact next_of_no_byte ((Memory.read_eq_none_iff hw s.pos).mpr (Nat.le_of_not_lt hge))

/-- Settles O10: both operations read the byte at the cursor, and the bytes ahead begin with it. -/
theorem peekThenNextAgree : Obligations.PeekThenNextAgree := by
  intro s ⟨hw, _, _⟩
  cases hr : Memory.read s.img s.pos with
  | none =>
    rw [next_of_no_byte hr, peek_of_no_byte hr]
    exact ⟨rfl, fun b hb => nomatch hb⟩
  | some b =>
    rw [next_of_read hr, peek_of_read hr]
    refine ⟨rfl, fun c hc => ?_⟩
    cases hc
    exact ahead_of_read hw hr

/-- Settles O11: below `LEN` one more byte is consumed and the cursor stays within the image; at `LEN` nothing
changes (O9). -/
theorem callerNextKeepsInvariant : Obligations.CallerNextKeepsInvariant := by
  intro s hs
  obtain ⟨hbelow, hend⟩ := nextConsumesExactlyOneByte s hs
  by_cases hlt : s.pos < Memory.len s.img
  · obtain ⟨b, _, hnext⟩ := hbelow hlt
    rw [callerNext, hnext, if_pos hlt]
    exact ⟨⟨hs.1, hlt, hs.2.2⟩, rfl, rfl, rfl, rfl⟩
  · rw [callerNext, hend hlt, if_neg hlt]
    exact ⟨hs, rfl, rfl, rfl, rfl⟩

end Sys2Proof.Machine
end

section
/-! The step and the algorithm `DecodeOne()` as the spec writes it (41_decode_transaction.md R111). The loop of Construct
calls `Next()` once a byte; the row-by-row Construct looks at the bytes ahead. `pull_eq` says that both see the same. -/

namespace Sys2Proof.Machine

/-- The state after `k` calls of `Next()` that delivered a byte. -/
def State.advance (s : State) (k : Nat) : State := { s with pos := s.pos + k }

@[simp] theorem advance_pos (s : State) (k : Nat) : (s.advance k).pos = s.pos + k := rfl
@[simp] theorem advance_img (s : State) (k : Nat) : (s.advance k).img = s.img := rfl
@[simp] theorem advance_params (s : State) (k : Nat) : (s.advance k).params = s.params := rfl

@[simp] theorem advance_advance (s : State) (j k : Nat) : (s.advance j).advance k = s.advance (j + k) := by
  simp [State.advance, Nat.add_assoc]

theorem ahead_advance (s : State) (k : Nat) : (s.advance k).ahead = Memory.bytesFrom s.img (s.pos + k) := rfl

theorem next_eq_advance {s : State} {b : Byte} (hr : Memory.read s.img s.pos = some b) :
    next s = (.byte b, s.advance 1) := next_of_read hr

/-- The outputs after `k` calls of `Next()` are those of a transaction that consumed `k` bytes (R121). -/
theorem finish_advance (s : State) (k : Nat) (o : DecodeOutcome) :
    finish s.pos o (s.advance k) = conclude k o s := by
  simp [finish, conclude, State.advance]

/-- The loop of Construct: the first `n` bytes ahead, or all of them when there are fewer. -/
theorem pull_eq {s : State} (hw : Memory.wf s.img) (n : Nat) :
    pull n s = if n ≤ s.ahead.length then .all (s.ahead.take n) (s.advance n)
      else .short s.ahead.length (s.advance s.ahead.length) := by
  induction n generalizing s with
  | zero => rfl
  | succ n ih =>
    cases hr : Memory.read s.img s.pos with
    | none => simp [pull, next_of_no_byte hr, ahead_of_no_byte hw hr, State.advance]
    | some b =>
      have ha : s.ahead = b :: (s.advance 1).ahead := ahead_of_read hw hr
      simp only [pull, next_eq_advance hr, ih (s := s.advance 1) hw, ha, List.length_cons, Nat.add_le_add_iff_right]
      by_cases hle : n ≤ (s.advance 1).ahead.length
      · simp [hle, Nat.add_comm 1]
      · simp [hle, Nat.add_comm 1]

/-- Construct of the algorithm, after `h` bytes of the transaction, is Construct of the row. -/
theorem constructOne_advance {s : State} (hw : Memory.wf s.img) (op : OpId) (r : Recipe) (h : Nat) :
    constructOne s.pos op r (s.advance h) = construct op r h (Memory.bytesFrom s.img (s.pos + h)) s := by
  rw [constructOne, pull_eq (s := s.advance h) hw, construct, ahead_advance]
  by_cases hle : immBytes r ≤ (Memory.bytesFrom s.img (s.pos + h)).length
  · simp only [if_pos hle, advance_advance, advance_params, finish_advance]
    rfl
  · simp only [if_neg hle, advance_advance, finish_advance]
    rfl

/-- Settles O5: the algorithm looks at the bytes the four ways a transaction starts are told apart by, and each of them
ends as the algorithm does. -/
theorem stepAgreesWithDecodeOne : Obligations.StepAgreesWithDecodeOne := by
  intro s hs
  have hw := hs.1
  obtain ⟨hend, e⟩ | ⟨p, hr, hp, hend, e⟩ | ⟨p, b, hr, hp, hr', e⟩ | ⟨f, hr, hf, e⟩ := step_cases hs <;> rw [e]
  · have hr : Memory.read s.img s.pos = none := (Memory.read_eq_none_iff hw _).mpr hend.ge
    rw [decodeOne, peek_of_no_byte hr]
    exact congrArg _ (finish_advance s 0 _).symm
  · have hr' : Memory.read (s.advance 1).img (s.advance 1).pos = none := (Memory.read_eq_none_iff hw _).mpr hend.ge
    simp [decodeOne, peek_of_read hr, hp, next_eq_advance hr, next_of_no_byte hr', finish_advance, danglingRow,
      raiseFailure]
  · have hn : next (s.advance 1) = (.byte b, s.advance 2) := next_eq_advance (s := s.advance 1) hr'
    cases he : prefixEntry s.params p b with
    | none =>
      simp [decodeOne, peek_of_read hr, hp, next_eq_advance hr, hn, he, finish_advance, prefixedRow_of_unknown,
        raiseFailure]
    | some r =>
      simp [decodeOne, peek_of_read hr, hp, next_eq_advance hr, hn, he, constructOne_advance hw,
        prefixedRow_of_recipe, pendingAfter_nil]
  · cases he : baseEntry s.params f with
    | none =>
      simp [decodeOne, peek_of_read hr, hf, next_eq_advance hr, he, finish_advance, baseRow_of_unknown, raiseFailure]
    | some r =>
      simp [decodeOne, peek_of_read hr, hf, next_eq_advance hr, he, constructOne_advance hw, baseRow_of_recipe,
        pendingAfter_nil]

end Sys2Proof.Machine
end

section
/-! Repeated transactions over an image: each one before the end advances, so a walk ends after consuming every byte once
(41_decode_transaction.md R124, 60_exceptions.md R201, 70_reset_and_hazards.md R233). -/

namespace Sys2Proof.Machine

/-- Below `LEN` a step consumes at least one byte: with none consumed it would have returned StreamExhausted. -/
theorem step_advances {s t : State} (hs : s.Inv) (hx : step s = .next t) (hlt : s.pos < Memory.len s.img) :
    s.pos < t.pos := by
  obtain ⟨n, _, rfl⟩ := step_outcome hs hx
  cases n with
  | zero => exact absurd (pos_eq_len_of_runOver hs hx rfl) hlt.ne
  | succ n => exact Nat.lt_add_of_pos_right n.succ_pos

/-- Settles O13: the first of the transactions ends as stated, and the rest start again at the end of the image. -/
theorem exhaustionPersists : Obligations.ExhaustionPersists := by
  intro s k hs hend
  induction k generalizing s with
  | zero => exact core_run_of_next 0 (step_at_end hs hend)
  | succ k ih =>
    rw [core_run_of_next (k + 1) (step_at_end hs hend)]
    exact ih (raiseFailure 0 .streamExhausted s) (conclude_inv hs _ hs.2.1) hend

/-- Some number of transactions, at most the number of bytes ahead, leads to the end of the image. -/
theorem run_reaches_end {s : State} (hs : s.Inv) : ∃ k t, k ≤ Memory.len s.img - s.pos ∧
    Host.Core.run Sys2Proof.core k s = .next t ∧ t.Inv ∧ t.img = s.img ∧ t.pos = Memory.len s.img := by
  induction hd : Memory.len s.img - s.pos using Nat.strong_induction_on generalizing s with
  | _ d ih =>
    rcases hs.2.1.eq_or_lt with hend | hlt
    · exact ⟨0, s, Nat.zero_le _, rfl, hs, rfl, hend⟩
    · obtain ⟨u, hx⟩ := step_completes hs
      have himg : u.img = s.img := (stepChangesNoMemory s u hx).2.1
      have hadv := step_advances hs hx hlt
      obtain ⟨k, t, hk, hrun, ht, htimg, htpos⟩ := ih _ (by rw [himg]; omega) (step_keeps_inv hs hx) rfl
      rw [himg] at hk htimg htpos
      exact ⟨k + 1, t, by omega, (core_run_of_next k hx).trans hrun, ht, htimg, htpos⟩

/-- Settles O33: the walk reaches the end (`run_reaches_end`), where a transaction finds the stream exhausted. -/
theorem walkReachesTheEnd : Obligations.WalkReachesTheEnd := by
  intro s hs
  obtain ⟨k, t, hk, hrun, ht, himg, hpos⟩ := run_reaches_end hs
  exact ⟨k, t, hk, hrun, ht, himg, hpos, step_at_end ht (by rw [himg, hpos])⟩

theorem walk_at_end {s : State} (hs : s.Inv) (hend : s.pos = Memory.len s.img) (k : Nat) : walk k s = [] := by
  cases k with
  | zero => rfl
  | succ k => simp [walk, step_at_end hs hend]

/-- Below `LEN` a walk lists the ports of the first transaction and goes on. -/
theorem walk_of_lt {s t : State} (hs : s.Inv) (hlt : s.pos < Memory.len s.img) (hx : step s = .next t) (k : Nat) :
    ∃ o, walk (k + 1) s = { outcome := o, consumed := t.pos - s.pos } :: walk k t := by
  obtain ⟨_, _, _, _, o, hports⟩ := stepChangesNoMemory s t hx
  have ho : o ≠ .fail .streamExhausted := by
    rintro rfl
    exact hlt.ne (pos_eq_len_of_runOver hs hx (by simp [State.runOver, hports]))
  exact ⟨o, by simp [walk, hx, hports, ho]⟩

/-- The counts of a walk that is long enough add up to the number of bytes ahead. -/
theorem sum_consumed_walk {s : State} (hs : s.Inv) {k : Nat} (hk : Memory.len s.img - s.pos ≤ k) :
    ((walk k s).map Ports.consumed).sum = Memory.len s.img - s.pos := by
  induction k generalizing s with
  | zero => exact (Nat.le_zero.mp hk).symm
  | succ k ih =>
    rcases hs.2.1.eq_or_lt with hend | hlt
    · rw [walk_at_end hs hend, hend, Nat.sub_self]
      rfl
    · obtain ⟨t, hx⟩ := step_completes hs
      obtain ⟨o, hwalk⟩ := walk_of_lt hs hlt hx k
      have himg : t.img = s.img := (stepChangesNoMemory s t hx).2.1
      have hadv := step_advances hs hx hlt
      have hle := step_pos_le_len hs hx
      have hrest := ih (step_keeps_inv hs hx) (by rw [himg]; omega)
      rw [himg] at hrest
      rw [hwalk, List.map_cons, List.sum_cons, hrest]
      change t.pos - s.pos + (Memory.len s.img - t.pos) = Memory.len s.img - s.pos
      omega

/-- Settles O34: `walkAll` is long enough for every byte ahead. -/
theorem walkConsumesEveryByteOnce : Obligations.WalkConsumesEveryByteOnce :=
  fun _ hs => sum_consumed_walk hs (by omega)

end Sys2Proof.Machine
end

section
/-! How a transaction fails: what each kind records and which bytes stay consumed (10_state.md R13, 60_exceptions.md R190
to R196). -/

namespace Sys2Proof.Machine

/-- Settles O16: nothing can be read at `LEN`, so the prefix dangles. -/
theorem danglingPrefixIsTruncated : Obligations.DanglingPrefixIsTruncated := by
  intro s hs hr hend
  exact step_dangling hs hr (mem_prefixSet.mpr rfl) ((Memory.read_eq_none_iff hs.1 _).mpr hend.ge)

/-- Settles O22: the step is Construct on the bytes after the opcode, which is within the image; an accepted configuration
gives `build` a value. -/
theorem truncationConsumesWhatIsThere : Obligations.TruncationConsumesWhatIsThere := by
  intro s f r hs hr _ he
  have hopcode : s.pos + 1 ≤ Memory.len s.img := (Memory.read_isSome_iff hs.1 s.pos).mp (by simp [hr])
  rw [step_of_baseEntry hs hr he, ← drop_ahead hs.1]
  exact ⟨construct_ahead_of_enough hs.1 fun _ => baseEntry_builds hs.2.2 he,
    construct_ahead_of_short hs.1 hopcode⟩

section
variable {s t : State} {e : Failure} {c : Nat}

/-- Construct that fails found too few bytes, and consumed them all (R115). -/
theorem construct_fail {op : OpId} {r : Recipe} {h : Nat} {pending : List Byte}
    (hx : construct op r h pending s = .next t) (ho : t.ports = some { outcome := .fail e, consumed := c }) :
    pending.length < immBytes r ∧ e = .truncatedOperand op (immBytes r) pending.length ∧ c = h + pending.length := by
  obtain ⟨_, i, _, rfl⟩ | ⟨hlt, rfl⟩ := construct_cases hx
  · cases ho
  · cases ho
    exact ⟨hlt, rfl, rfl⟩

/-- A base transaction that fails found no recipe, or too few bytes for it. -/
theorem baseRow_fail {f : Byte} (hw : Memory.wf s.img) (hx : baseRow f [] s = .next t)
    (ho : t.ports = some { outcome := .fail e, consumed := c }) :
    (baseEntry s.params f = none ∧ e = .unknownBaseOpcode f ∧ c = 1) ∨
    (∃ r k, baseEntry s.params f = some r ∧ k = Memory.len s.img - (s.pos + 1) ∧ k < immBytes r ∧
      e = .truncatedOperand { pfx := none, opcode := f } (immBytes r) k ∧ c = 1 + k) := by
  cases he : baseEntry s.params f with
  | none =>
    rw [baseRow_of_unknown he] at hx
    cases hx
    cases ho
    exact .inl ⟨rfl, rfl, rfl⟩
  | some r =>
    rw [baseRow_of_recipe he, pendingAfter_nil] at hx
    exact .inr ⟨r, _, rfl, Memory.length_bytesFrom hw _, construct_fail hx ho⟩

/-- A prefixed transaction that fails found no recipe, or too few bytes for it. -/
theorem prefixedRow_fail {p b : Byte} (hw : Memory.wf s.img) (hx : prefixedRow p b s = .next t)
    (ho : t.ports = some { outcome := .fail e, consumed := c }) :
    (prefixEntry s.params p b = none ∧ e = .unknownPrefixedOpcode p b ∧ c = 2) ∨
    (∃ r k, prefixEntry s.params p b = some r ∧ k = Memory.len s.img - (s.pos + 2) ∧ k < immBytes r ∧
      e = .truncatedOperand { pfx := some p, opcode := b } (immBytes r) k ∧ c = 2 + k) := by
  cases he : prefixEntry s.params p b with
  | none =>
    rw [prefixedRow_of_unknown he] at hx
    cases hx
    cases ho
    exact .inl ⟨rfl, rfl, rfl⟩
  | some r =>
    rw [prefixedRow_of_recipe he, pendingAfter_nil] at hx
    exact .inr ⟨r, _, rfl, Memory.length_bytesFrom hw _, construct_fail hx ho⟩

theorem pos_of_ports {o : DecodeOutcome} (hx : step s = .next t)
    (ho : t.ports = some { outcome := o, consumed := c }) : t.pos = s.pos + c := by
  obtain ⟨n, o', rfl⟩ := step_concludes hx
  cases ho
  rfl

end

/-- Settles O24: each of the four ways a transaction starts fails with kinds of its own; a truncation consumed the rest of
the image. -/
theorem failureLeavesTheConsumedBytes : Obligations.FailureLeavesTheConsumedBytes := by
  intro s t e c hs hx ho
  have hw := hs.1
  have hpos := pos_of_ports hx ho
  refine ⟨hpos, ?_⟩
  obtain ⟨hend, hstep⟩ | ⟨p, hr, hp, hend, hstep⟩ | ⟨p, b, hr, hp, hr', hstep⟩ | ⟨f, hr, hf, hstep⟩ := step_cases hs <;>
    rw [hstep] at hx
  · cases hx
    cases ho
    exact ⟨hend, rfl⟩
  · cases hx
    cases ho
    exact ⟨Nat.one_pos, hend, .inl ⟨rfl, hp, hr, rfl, rfl, rfl⟩⟩
  · obtain ⟨he, rfl, rfl⟩ | ⟨r, k, he, hk, hlt, rfl, rfl⟩ := prefixedRow_fail hw hx ho
    · exact ⟨hr, hp, hr', he, rfl⟩
    · have hpair : s.pos + 2 ≤ Memory.len s.img := (Memory.read_isSome_iff hw (s.pos + 1)).mp (by simp [hr'])
      exact ⟨hlt, by omega, .inr (.inr ⟨p, rfl, hp, hr, hr', by simp [he], rfl⟩)⟩
  · obtain ⟨he, rfl, rfl⟩ | ⟨r, k, he, hk, hlt, rfl, rfl⟩ := baseRow_fail hw hx ho
    · exact ⟨hr, hf, he, rfl⟩
    · have hopcode : s.pos + 1 ≤ Memory.len s.img := (Memory.read_isSome_iff hw s.pos).mp (by simp [hr])
      exact ⟨hlt, by omega, .inr (.inl ⟨rfl, hf, hr, by simp [he], rfl⟩)⟩

/-- Settles O25: the base entry of a prefix is Unknown without a lookup, and UnknownBaseOpcode names no prefix (O24). -/
theorem unknownBaseNeverNamesAPrefix : Obligations.UnknownBaseNeverNamesAPrefix := by
  refine ⟨fun _ => rfl, fun s t c hs hx ho => ?_⟩
  obtain ⟨_, _, hb, _, _⟩ := failureLeavesTheConsumedBytes s t _ c hs hx ho
  exact hb (mem_prefixSet.mpr rfl)

end Sys2Proof.Machine
end

section
/-! Locality of a transaction (41_decode_transaction.md R119): an outcome that did not meet the end of the image depends
only on the bytes consumed. Success and the two Unknown failures are characterised by those bytes (O21, O24), which the
other state has ahead too. -/

namespace Sys2Proof.Machine

section
variable {s t : State} {c : Nat}

/-- Bytes ahead that agree up to `c` are read alike below `c`. -/
theorem read_of_take_ahead (hs : Memory.wf s.img) (ht : Memory.wf t.img) (ha : t.ahead.take c = s.ahead.take c)
    {k : Nat} (hk : k < c) : Memory.read t.img (t.pos + k) = Memory.read s.img (s.pos + k) := by
  have hget := congrArg (·[k]?) ha
  simpa only [List.getElem?_take_of_lt hk, State.ahead, Memory.getElem?_bytesFrom hs, Memory.getElem?_bytesFrom ht]
    using hget

/-- Bytes ahead that agree up to `h + n` agree on the `n` after the first `h`. -/
theorem take_drop_of_take_ahead {h n : Nat} (ha : t.ahead.take (h + n) = s.ahead.take (h + n)) :
    (t.ahead.drop h).take n = (s.ahead.drop h).take n := by
  rw [List.take_drop, List.take_drop, ha]

/-- A state that has the `c` bytes another consumed ahead of it has them within its image. -/
theorem add_le_len_of_take_ahead (hs : Memory.wf s.img) (ht : t.Inv) (hc : s.pos + c ≤ Memory.len s.img)
    (ha : t.ahead.take c = s.ahead.take c) : t.pos + c ≤ Memory.len t.img := by
  have hlen := congrArg List.length ha
  rw [List.length_take, List.length_take, length_ahead hs, length_ahead ht.1] at hlen
  have := ht.2.1
  omega

/-- A success does not depend on the bytes after the consumed ones. -/
theorem step_ok_of_take_ahead (hs : s.Inv) (ht : t.Inv) (hp : s.params = t.params) {s' : State}
    (hx : step s = .next s') {i : Instruction} (ho : s'.ports = some { outcome := .ok i, consumed := c })
    (ha : t.ahead.take c = s.ahead.take c) : step t = .next (after t c (.ok i)) := by
  obtain ⟨hpos, hle, ⟨f, r, hr, hf, he, rfl, hi⟩ | ⟨p, b, r, hr, hpfx, hr', he, rfl, hi⟩⟩ :=
    successConsumesItsLength s s' i c hs hx ho <;>
    have hfit := add_le_len_of_take_ahead hs.1 ht (hpos ▸ hle) ha <;>
    rw [← take_drop_of_take_ahead ha, hp] at hi <;> rw [hp] at he
  · have hrt := (read_of_take_ahead hs.1 ht.1 ha (k := 0) (by omega)).trans hr
    obtain ⟨j, hj, hstep⟩ := (truncationConsumesWhatIsThere t f r ht hrt hf he).1 (by omega)
    obtain rfl := Option.some.inj (hi.symm.trans hj)
    exact hstep
  · obtain rfl := mem_prefixSet.mp hpfx
    have hrt := (read_of_take_ahead hs.1 ht.1 ha (k := 0) (by omega)).trans hr
    have hrt' := (read_of_take_ahead hs.1 ht.1 ha (k := 1) (by omega)).trans hr'
    obtain ⟨j, hj, hstep⟩ := (prefixedRecipeIsConstructed.1 t b r ht hrt hrt' he).1 (by omega)
    obtain rfl := Option.some.inj (hi.symm.trans hj)
    exact hstep

end

/-- Settles O31: a success by `step_ok_of_take_ahead`; an Unknown byte or pair is Unknown in the other state too (O14,
O15). -/
theorem laterBytesHaveNoInfluence : Obligations.LaterBytesHaveNoInfluence := by
  intro s t s' o c hs ht hp hx ho hne hnt ha
  cases o with
  | ok i => exact step_ok_of_take_ahead hs ht hp hx ho ha
  | fail e =>
    obtain ⟨_, hfail⟩ := failureLeavesTheConsumedBytes s s' e c hs hx ho
    cases e with
    | streamExhausted => exact absurd rfl hne
    | truncatedOperand op n k => exact absurd rfl (hnt op n k)
    | unknownBaseOpcode b =>
      obtain ⟨hr, hb, he, rfl⟩ := hfail
      have hrt := (read_of_take_ahead hs.1 ht.1 ha (k := 0) Nat.one_pos).trans hr
      exact unknownBaseByteConsumesOneByte t b ht hrt hb (hp ▸ he)
    | unknownPrefixedOpcode p b =>
      obtain ⟨hr, hpfx, hr', he, rfl⟩ := hfail
      have hrt := (read_of_take_ahead hs.1 ht.1 ha (k := 0) Nat.two_pos).trans hr
      have hrt' := (read_of_take_ahead hs.1 ht.1 ha (k := 1) Nat.one_lt_two).trans hr'
      exact unknownPrefixedByteConsumesTwoBytes.1 t p b ht hrt hpfx hrt' (hp ▸ he)

end Sys2Proof.Machine
end

section
/-! What stops a step before it runs (10_state.md R12, 30_encoding.md R64, R65, 93_implementation_defined.md U1, U18). -/

namespace Sys2Proof.Machine

/-- A step outside the states of the machine faults. -/
theorem step_of_not_inImage {s : State} (h : ¬ inImage s) : step s = .fault .cursorOutsideImage := if_neg h

/-- A step of a refused configuration is refused for the same reason. -/
theorem step_of_launchRefusal {s : State} (h : inImage s) {r : Refusal} (hr : launchRefusal s = some r) :
    step s = .refused r := by
  rw [step, launch, if_pos h, hr]

/-- Settles O7: the launch names the first premise that fails. -/
theorem launchPremisesAreChecked : Obligations.LaunchPremisesAreChecked := by
  refine ⟨fun s h => step_of_not_inImage h, ?_, ?_, ?_⟩
  · intro s h hext
    exact step_of_launchRefusal h (by simp [launchRefusal, hext])
  · intro s h hext hneeds horder
    exact step_of_launchRefusal h (by simp [launchRefusal, hext, hneeds, horder])
  · intro s w h hext horder hbits hlen
    exact step_of_launchRefusal h (by simp only [launchRefusal, hext, horder, hbits, if_pos hlen]; rfl)

end Sys2Proof.Machine
end

section
/-! The values the block computes or reports: 16-bit immediates, partial addresses and the codes of the ports
(30_encoding.md R64, 40_instruction_model.md R87, 60_exceptions.md R195). -/

namespace Sys2Proof.Machine

/-- Two bytes make a number that a 16-bit word holds. -/
theorem toNat_ofNat_bytes (hi lo : Byte) :
    (BitVec.ofNat 16 (256 * hi.toNat + lo.toNat)).toNat = 256 * hi.toNat + lo.toNat := by
  rw [BitVec.toNat_ofNat]
  omega

theorem toNat_imm16_lowFirst (b1 b2 : Byte) : (imm16 .lowFirst b1 b2).toNat = b1.toNat + 256 * b2.toNat := by
  rw [imm16, Nat.add_comm, toNat_ofNat_bytes]

theorem toNat_imm16_highFirst (b1 b2 : Byte) : (imm16 .highFirst b1 b2).toNat = 256 * b1.toNat + b2.toNat :=
  toNat_ofNat_bytes b1 b2

/-- Settles O42: `build` fills the slot with `imm16` of the order, and has no value without one. -/
theorem imm16FollowsTheOrder : Obligations.Imm16FollowsTheOrder := fun _ b1 b2 =>
  ⟨⟨_, toNat_imm16_lowFirst b1 b2, rfl⟩, ⟨_, toNat_imm16_highFirst b1 b2, rfl⟩, rfl⟩

/-- Settles O43: both chunks have the value of a byte. -/
theorem partialAddressValue : Obligations.PartialAddressValue :=
  fun regs hi lo => toNat_ofNat_bytes (chunkValue regs hi) (chunkValue regs lo)

/-- Settles O44: each output is read off the one outcome of the ports. -/
theorem errorKindCodes : Obligations.ErrorKindCodes := by
  intro c i b p op n k
  refine ⟨rfl, rfl, rfl, rfl, ?_, ?_, rfl⟩ <;> rintro ⟨_ | _, _⟩ <;>
    simp [Ports.okBit, Ports.instrOut, Ports.errKind, Ports.errInfo]

end Sys2Proof.Machine
end

section
/-! The tables: which recipe a base byte has in each configuration (30_encoding.md R60, R65 (c)) and under EXT_LD8
(45_ext_ld8_profile.md R180 to R183); and what the rows with such a recipe return. -/

namespace Sys2Proof.Machine

/-- A byte that is neither a prefix nor sourced has the entry of the extension (R65 (c)). -/
theorem baseEntry_of_not_sourced (p : Params) {b : Byte} (hb : b ∉ prefixSet) (h : sourcedTable.lookup b = none) :
    baseEntry p b = p.baseExt.lookup b := by
  simp [baseEntry, hb, h]

/-- Settles O41: the sourced table is looked up first. -/
theorem extensionsChangeNoSourcedEntry : Obligations.ExtensionsChangeNoSourcedEntry :=
  fun p _ hb => ⟨fun _ h => baseEntry_of_sourced p h, baseEntry_of_not_sourced p hb⟩

/-- Settles O40: each pair of operand codes and each operand code is looked up. -/
theorem extLd8FollowsItsPatterns : Obligations.ExtLd8FollowsItsPatterns := by
  refine ⟨?_, ?_, rfl, rfl⟩
  · decide
  · decide

/-- Settles O38: decoding computes on each of the words. -/
theorem sampleWordsDecode : Obligations.SampleWordsDecode :=
  ⟨rfl, rfl, rfl, rfl, rfl, rfl, rfl, rfl, rfl, rfl, rfl, rfl, rfl⟩

section
variable {i : Instr} {f : Byte} {s : State}

/-- A row of one byte with a recipe of format `OP` returns the Instruction of the recipe. -/
theorem exec_of_op (henc : encode i = [f]) {ins : Instruction} (he : baseEntry s.params f = some (.op ins)) :
    exec i s = .next (after s 1 (.ok ins)) := by
  rw [exec_of_encode henc (not_prefix_of_baseEntry he), baseRow_of_recipe he]
  exact construct_of_enough (Nat.zero_le _) rfl

/-- An immediate load with its recipe returns a Load8 of the byte the row holds. -/
theorem exec_of_loadImm {v : Byte} (henc : encode i = [f, v]) {dst : Writable8Of (Slot8 1) Word16}
    (he : baseEntry s.params f = some (loadImm dst)) :
    exec i s = .next (after s 2 (.ok (.load8 (dst.map (fillOne v) id) (.immediate v)))) := by
  rw [exec_of_encode henc (not_prefix_of_baseEntry he), baseRow_of_recipe he]
  exact construct_of_enough (Nat.succ_pos _) rfl

/-- The base entry depends on no parameter but the base extension. -/
theorem baseEntry_of_extLd8 {p : Params} (hext : p.baseExt = extLd8) (b : Byte) :
    baseEntry p b = baseEntry profileExtLd8 b := by
  rw [baseEntry, hext]
  rfl

/-- A one-byte row with a recipe under EXT_LD8. -/
theorem exec_of_extLd8_op (hext : s.params.baseExt = extLd8) (henc : encode i = [f]) {ins : Instruction}
    (he : baseEntry profileExtLd8 f = some (.op ins)) : exec i s = .next (after s 1 (.ok ins)) :=
  exec_of_op henc ((baseEntry_of_extLd8 hext f).trans he)

/-- An immediate load with a recipe under EXT_LD8. -/
theorem exec_of_extLd8_loadImm (hext : s.params.baseExt = extLd8) {v : Byte} (henc : encode i = [f, v])
    {dst : Writable8Of (Slot8 1) Word16} (he : baseEntry profileExtLd8 f = some (loadImm dst)) :
    exec i s = .next (after s 2 (.ok (.load8 (dst.map (fillOne v) id) (.immediate v)))) :=
  exec_of_loadImm henc ((baseEntry_of_extLd8 hext f).trans he)

end

/-- Settles O45: a sourced recipe is the base entry in every configuration. -/
theorem sourcedLoadsComplete : Obligations.SourcedLoadsComplete := fun s _ =>
  have he {f : Byte} {r : Recipe} (h : sourcedTable.lookup f = some r) := baseEntry_of_sourced s.params h
  ⟨exec_of_loadImm (dst := .register .B) rfl (he rfl), exec_of_loadImm (dst := .indirect .HL) rfl (he rfl),
    exec_of_op rfl (he rfl), exec_of_op rfl (he rfl)⟩

/-- Settles O46: the recipe of each immediate load is in EXT_LD8 (R183). -/
theorem extImmediateLoadsComplete : Obligations.ExtImmediateLoadsComplete := by
  intro s i hext
  and_intros
  · exact exec_of_extLd8_loadImm (dst := .register .C) hext rfl rfl
  · exact exec_of_extLd8_loadImm (dst := .register .D) hext rfl rfl
  · exact exec_of_extLd8_loadImm (dst := .register .E) hext rfl rfl
  · exact exec_of_extLd8_loadImm (dst := .register .H) hext rfl rfl
  · exact exec_of_extLd8_loadImm (dst := .register .L) hext rfl rfl
  · exact exec_of_extLd8_loadImm (dst := .register .A) hext rfl rfl

/-- Settles O47: the recipe of each of these rows is in EXT_LD8 (R182). -/
theorem extLoadsToBAndCComplete : Obligations.ExtLoadsToBAndCComplete := by
  intro s hext
  and_intros <;> exact exec_of_extLd8_op hext rfl rfl

/-- Settles O48: the recipe of each of these rows is in EXT_LD8 (R182). -/
theorem extLoadsToDAndEComplete : Obligations.ExtLoadsToDAndEComplete := by
  intro s hext
  and_intros <;> exact exec_of_extLd8_op hext rfl rfl

/-- Settles O49: the recipe of each of these rows is in EXT_LD8 (R182). -/
theorem extLoadsToHAndLComplete : Obligations.ExtLoadsToHAndLComplete := by
  intro s hext
  and_intros <;> exact exec_of_extLd8_op hext rfl rfl

/-- Settles O50: the recipe of each of these rows is in EXT_LD8 (R182). -/
theorem extLoadsToIndirectAndAComplete : Obligations.ExtLoadsToIndirectAndAComplete := by
  intro s hext
  and_intros <;> exact exec_of_extLd8_op hext rfl rfl

/-- A byte of the catch-all row is not sourced: the four sourced opcodes have rows of their own. -/
theorem sourcedTable_lookup_of_wellFormed {b : Byte} (h : (Instr.unknownBase b).wellFormed = true) :
    sourcedTable.lookup b = none := by
  have hrows : ∀ e ∈ sourcedTable, hasOwnRow e.1 = true := by decide
  rw [List.lookup_eq_none_iff]
  intro e he
  rw [Instr.wellFormed, Bool.not_eq_true'] at h
  rw [bne_iff_ne]
  rintro rfl
  exact Bool.noConfusion (h.symm.trans (hrows e he))

/-- Settles O52: neither row finds a recipe, and the dangling prefix looks none up. -/
theorem unknownRowsComplete : Obligations.UnknownRowsComplete := by
  refine ⟨?_, ?_, fun _ => rfl⟩
  · intro s b hwf hext
    obtain ⟨hb, _, _⟩ := wellFormed_unknownBase_iff.mp hwf
    have he := (baseEntry_of_not_sourced s.params hb (sourcedTable_lookup_of_wellFormed hwf)).trans hext
    exact extRowsAreUnknownByDefault.1 (.unknownBase b) s b rfl hb he
  · intro s b hext
    exact prefixedRow_of_unknown ((prefixEntry_cb s.params b).trans hext)

end Sys2Proof.Machine
end
